-- ==== Sys2Proof/Word.lean ====
section
/-! DEFINITION. The byte of the plant link and of the field lines, the one word the FA2048 moves (R180, R118). -/

namespace Sys2Proof

/-- One character of a serial line: 8 data bits (R180, Table 6-1). -/
abbrev Byte := BitVec 8

end Sys2Proof
end

