-- ==== Sys2Proof/Config.lean ====
section
/-! DEFINITION. The fixed sizes and intervals of the FA2048, and the limits of Table 10-1 with their defaults.
The spec leaves no value of the part open, so no constant here is a free value. -/

namespace Sys2Proof.Config

/-- Heliostat records, indexed 0..2047 (R22). -/
abbrev nHelio : Nat := 2048
/-- Drive classes (R29). -/
abbrev nClass : Nat := 8
/-- Standby points (R32). -/
abbrev nStandby : Nat := 4
/-- Aim map slots (R47). -/
abbrev nSlot : Nat := 64
/-- Receiver zones (R65). -/
abbrev nZone : Nat := 128
/-- Field lines (R112). -/
abbrev nLine : Nat := 8
/-- Drive addresses of one field line (R113). -/
abbrev nAddr : Nat := 256

/-- Milliseconds of a day; plant time runs 0..86,399,999 (R165). -/
abbrev dayMs : Nat := 86400000
/-- Places of the receive queue, and of the FULL list (R181). -/
abbrev queueDepth : Nat := 4
/-- Silence of a field line after a reset, 25 ms, in µs (R112). -/
abbrev lineSilenceUs : Nat := 25000
/-- The sample interval and the conversion interval, 250 ms, in µs (R139, R143). -/
abbrev sampleUs : Nat := 250000
/-- The ready timeout of the converter, 20 ms, in µs (R143). -/
abbrev readyUs : Nat := 20000
/-- The hold time of the STOW and PERMIT filters, 10 ms, in µs (R147). -/
abbrev holdUs : Nat := 10000
/-- A gap over 1 ms between two bytes discards a plant link frame (R180), in µs. -/
abbrev plantGapUs : Nat := 1000

/-- The seventeen limits of Table 10-1, in the order of their ids 0x01..0x11, with their cold-reset defaults. -/
structure Limits where
  sweepPeriod     : Nat := 4000
  sunValidity     : Nat := 120
  minSunEl        : Nat := 5000
  silenceTimeout  : Nat := 10
  replyTimeout    : Nat := 2
  lostLimit       : Nat := 4
  watchInterval   : Nat := 30
  quietInterval   : Nat := 1000
  pulseDistance   : Nat := 700000
  gustStow        : Nat := 15000
  sustainedStow   : Nat := 11000
  gustResume      : Nat := 10000
  sustainedResume : Nat := 8000
  resumeHold      : Nat := 600
  span            : Nat := 1500
  decayStep       : Nat := 10
  fallback        : Nat := 1000
deriving DecidableEq, Repr

end Sys2Proof.Config
end

