-- ==== Sys2Proof/Syntax.lean ====
section
/-! DEFINITION. The commands of the FA2048: one constructor for each row of spec/opcode_table.json, in the table's order.
A request row stands for the step in which the plant link port carries out the next waiting request of its receive queue
(R182); the request's kind, tag and payload lie in the queue, where PLANT_FRAME_RECEIVED put them, so these rows carry no
operand (log 2). The table gives no row any field; the operands below are what the outside brings to the event. -/

namespace Sys2Proof

/-- The two protection inputs that the weather monitor filters (R147). -/
inductive InputPin where
  | stow
  | permit
deriving DecidableEq, Repr

inductive Instr where
  /-- Power-on or assertion of the RESET line (R24, R187). -/
  | coldReset
  /-- A complete frame has come in: its bytes after the sync byte, LEN to the second check byte (R180). -/
  | plantFrameReceived (frame : List Byte)
  | plantFrameGapTimeout
  | frameSent
  | unknownKindRequest
  | setTime
  | loadSun
  | setLimits
  | setMasks
  | loadClass
  | loadHeliostat
  | removeHeliostat
  | setDuty
  | releaseHeliostat
  | forgetHeliostat
  | setStandby
  | loadAim
  | disableAim
  | widenAim
  | selectStrategy
  | setAllowance
  | start
  | halt
  | grantPermit
  | revokePermit
  | stow
  | resume
  | quiet
  | wake
  | restart
  | readStatus
  | setCursor
  | readHeliostats
  | readZones
  | readAim
  | readFault
  | readMiss
  | readWeather
  | clearFlags
  | setNotices
  | readClass
  | sweepTimerExpiry
  | visit
  | stowPassStep
  | defocusPassStep
  | lineSilenceExpiry (line : Fin Config.nLine)
  | pollFrameSent (line : Fin Config.nLine)
  | replyTimeout (line : Fin Config.nLine)
  | replyGapTimeout (line : Fin Config.nLine)
  /-- A complete reply on a field line: the eleven bytes after its sync byte 0x5B (R119, Table 10-10). -/
  | driveReply (line : Fin Config.nLine) (bytes : List Byte)
  | quietTimerExpiry (line : Fin Config.nLine)
  | anemoEdge
  | captureWrap
  | windSample
  | conversionStart
  | dniReady
  /-- The sixteenth bit has been clocked in; the code read, most significant bit first (R143). -/
  | conversionComplete (code : BitVec 16)
  | dniReadyTimeout
  /-- A protection input's pin takes a level, asserted or not (R147). -/
  | linePinChange (pin : InputPin) (level : Bool)
  | lineFilterExpiry (pin : InputPin)
  | silenceExpiry
  | plantTimeWrap
  /-- A byte with its stop bit arrives on PL_RXD (R180). -/
  | plantByteReceived (b : Byte)
  | plantFramingError
  | replySyncReceived (line : Fin Config.nLine)
  | replyFramingError (line : Fin Config.nLine)
  | vacantIndexPassed
  | coldResetEnd
deriving DecidableEq, Repr

end Sys2Proof
end

