-- ==== Sys2Proof/Machine/State.lean ====
section
/-! DEFINITION. Everything the spec gives the FA2048 to hold, as plain data, and its value right after a cold reset.
The blocks of 00_scope.md (Block Diagram) are the parts of State. Counts and angles are integers; the sets that software
reads and writes whole (flags, masks, duty sets, notice sets) are bit vectors with the bit order of Table 10-4. -/

namespace Sys2Proof.Machine

/-! ## Heliostat table (chapter 2) -/

/-- Kinds of target (00_scope.md, Terms; codes in Table 10-4). -/
inductive TargetKind where
  | receiver | standby | defocus | stow
deriving DecidableEq, Repr

/-- An azimuth and elevation count pair with its kind. -/
structure Target where
  kind : TargetKind
  az   : Int
  el   : Int
deriving DecidableEq, Repr

/-- The seven states of a heliostat record (Table 2-3). -/
inductive HState where
  | vacant | idle | clear | approach | onTarget | retarget | leaving
deriving DecidableEq, Repr

/-- Duties (Table 2-1). -/
inductive Duty where
  | operate | preheat | calibrate | outOfService
deriving DecidableEq, Repr

/-- Exception kinds (Table 9-1), the eight heliostat kinds first, in code order. -/
inductive ExcKind where
  | driveFault | driveLost | lag | aimMiss | aimDenied | geometry | travel | flux
  | staleSun | sunLow | windStow | lineStow | permitDrop | linkSilent | sweepOverrun | dniSensor
deriving DecidableEq, Repr

/-- A position in mm in the field frame. -/
structure Point where
  x : Int
  y : Int
  z : Int
deriving DecidableEq, Repr

/-- What a valid reply reports (R122). -/
structure Reported where
  az      : Int
  el      : Int
  settled : Bool
  fault   : Nat
deriving DecidableEq, Repr

/-- A claim on a zone's allowance (Table 4-2). -/
structure Reservation where
  zone   : Nat
  slot   : Nat
  amount : Nat
deriving DecidableEq, Repr

/-- One heliostat record (Tables 2-1 and 2-2). The default is the VACANT record of R24. -/
structure Helio where
  st         : HState := .vacant
  line       : Nat := 0
  addr       : Nat := 0
  cls        : Nat := 0
  pivot      : Point := ⟨0, 0, 0⟩
  azCal      : Int := 0
  elCal      : Int := 0
  aimOff     : Int := 0
  standby    : Nat := 0
  weight     : Nat := 0
  duty       : Duty := .operate
  latched    : Bool := false
  lost       : Bool := false
  isLocal    : Bool := false
  faulted    : Bool := false
  misses     : Nat := 0
  lag        : Nat := 0
  commanded  : Option Target := none
  pendingT   : Option Target := none
  lastRecv   : Option (Int × Int) := none
  reported   : Option Reported := none
  primary    : Option Reservation := none
  transfer   : Option Reservation := none
  lastExc    : Option ExcKind := none
deriving DecidableEq, Repr

/-- Round modes of a drive class (Table 2-4). -/
inductive RoundMode where
  | nearestEven | down | up | towardZero
deriving DecidableEq, Repr

/-- One drive class (Table 2-4). The default is the cold-reset column. -/
structure DriveClass where
  valid         : Bool := false
  azGain        : Nat := 0
  elGain        : Nat := 0
  azRef         : Nat := 0
  elRef         : Int := 0
  azMin         : Int := 0
  azMax         : Int := 0
  elMin         : Int := 0
  elMax         : Int := 0
  round         : RoundMode := .nearestEven
  deadband      : Nat := 0
  tolerance     : Nat := 0
  clearDist     : Nat := 0
  defocus       : Int := 0
  stowAz        : Int := 0
  stowEl        : Int := 0
  approachLimit : Nat := 0
  lagLimit      : Nat := 0
deriving DecidableEq, Repr

/-! ## Aim map (chapter 3) -/

/-- States of an aim entry (Table 3-1). -/
inductive AimState where
  | free | enabled | draining
deriving DecidableEq, Repr

/-- One aim entry (Table 3-1). The default is the cold-reset value of R47. Duties permitted: bit 0 OPERATE, bit 1 PREHEAT,
bit 2 CALIBRATE (Table 10-4). -/
structure AimEntry where
  st       : AimState := .free
  strategy : Nat := 0
  shared   : Bool := false
  base     : Nat := 0
  size     : Nat := 1
  aim      : Point := ⟨0, 0, 0⟩
  zone     : Nat := 0
  duties   : BitVec 3 := 0#3
  users    : Nat := 0
deriving DecidableEq, Repr

/-! ## Flux budget (chapter 4) -/

/-- One zone record (Table 4-1). -/
structure Zone where
  active    : Nat := 0
  pending   : Option Nat := none
  committed : Nat := 0
  leaving   : Nat := 0
deriving DecidableEq, Repr

/-! ## Tracking engine (chapter 5) -/

/-- The sweep timer: stopped, running with the milliseconds that remain, or expired (Table 5-1). -/
inductive SweepTimer where
  | stopped
  | running (ms : Nat)
  | expired
deriving DecidableEq, Repr

/-- The indicators of one sun evaluation (R5). -/
structure SunFlags where
  stale : Bool
  low   : Bool
deriving DecidableEq, Repr

/-- The sun of a sweep snapshot: the evaluated angles in µdeg, of which the vector S of R6 is a function, and the
indicators (R93). -/
structure SnapSun where
  az    : Int
  el    : Int
  flags : SunFlags
deriving DecidableEq, Repr

/-- Tracking engine state (Table 5-1). -/
structure Sweep where
  timer           : SweepTimer := .stopped
  progress        : Option Nat := none
  startWaiting    : Bool := false
  snapStrategy    : Nat := 0
  snapSun         : Option SnapSun := none
  snapDni         : Nat := 0
  number          : Nat := 0
  active          : Nat := 0
  pendingStrategy : Option Nat := none
deriving DecidableEq, Repr

/-! ## Field lines (chapter 6) -/

/-- Phases of a poll (Figure 6-2); awaiting holds the µs left of the reply timeout. -/
inductive PollPhase where
  | sending
  | awaiting (left : Nat)
  | receiving
deriving DecidableEq, Repr

/-- A poll in flight (R112): the heliostat and address polled, the MOVE's target (absent: QUERY), the void indication, the
watch interval it carries (R118), the reply timeout in ms it started with (R119), and its phase. -/
structure Poll where
  helio   : Nat
  addr    : Nat
  move    : Option Target
  void    : Bool
  watch   : Nat
  timeout : Nat
  phase   : PollPhase
deriving DecidableEq, Repr

/-- One field line (R112). Timers hold the µs that remain. The default is the value after either reset. -/
structure Line where
  poll    : Option Poll := none
  rr      : Option Nat := none
  carried : Vector (Option Target) Config.nAddr := Vector.replicate Config.nAddr none
  quiet   : Option Nat := none
  silence : Option Nat := some Config.lineSilenceUs
deriving DecidableEq, Repr

/-! ## Weather monitor (chapter 7) -/

/-- The anemometer capture chain (R136). -/
inductive Chain where
  | idle
  | timing (count ovf : Nat)
deriving DecidableEq, Repr

/-- Wind states (R140). -/
inductive Wind where
  | calm | windy | settling
deriving DecidableEq, Repr

/-- Phases of the conversion cycle (Figure 7-4); converting holds the µs left of the ready timeout. -/
inductive Conv where
  | waiting
  | converting (left : Nat)
  | reading
deriving DecidableEq, Repr

/-- One line filter (R147): the pin's level, the filtered level, and the hold timer's µs when it runs. -/
structure Filter where
  pin   : Bool := false
  level : Bool := false
  hold  : Option Nat := none
deriving DecidableEq, Repr

/-- Weather monitor state (Table 7-1). The default is the cold column. -/
structure Weather where
  chain       : Chain := .idle
  speed       : Nat := 0
  ring        : List Nat := []
  gust        : Nat := 0
  sustained   : Nat := 0
  wind        : Wind := .settling
  settle      : Nat := 0
  sampleLeft  : Nat := Config.sampleUs
  conv        : Conv := .waiting
  convLeft    : Nat := Config.sampleUs
  reading     : Option Nat := none
  sensorFault : Bool := false
  dni         : Nat := 1000
  stowIn      : Filter := {}
  permitIn    : Filter := {}
deriving DecidableEq, Repr

/-! ## Field supervisor (chapter 8) -/

/-- Field modes (Table 8-1). -/
inductive Mode where
  | halted | tracking | stowing | stowed | quiet
deriving DecidableEq, Repr

/-- The sun record (Table 1-1). -/
structure SunRecord where
  tRef   : Nat := 0
  azRef  : Int := 0
  elRef  : Int := 0
  azRate : Int := 0
  elRate : Int := 0
deriving DecidableEq, Repr

/-- Field supervisor state (Table 8-1); the silence timer holds the µs that remain, and usInMs counts the µs of the running
millisecond of plant time (log 6). Permit in force is derived (R159). -/
structure Sup where
  mode        : Mode := .halted
  grant       : Bool := false
  plantTime   : Nat := 0
  usInMs      : Nat := 0
  timeSet     : Bool := false
  sun         : SunRecord := {}
  sunPresent  : Bool := false
  lastSun     : Option SunFlags := none
  silence     : Nat := 10000000
  stowPass    : Option Nat := none
  defocusPass : Option Nat := none
deriving DecidableEq, Repr

/-! ## Exception unit and notices (chapter 9) -/

/-- The fault record (R167). -/
structure FaultRecord where
  kind  : ExcKind
  time  : Nat
  helio : Option Nat
  zone  : Option Nat
  slot  : Option Nat
deriving DecidableEq, Repr

/-- The exception unit (R167): bit k of flags and masks belongs to kind code k; a set mask bit is masked. -/
structure Exc where
  flags : BitVec 16 := 0#16
  masks : BitVec 16 := 0x42F8#16
  fault : Option FaultRecord := none
  count : Nat := 0
  alert : Bool := false
deriving DecidableEq, Repr

/-- The six notice sources, in the arbiter's order (Table 9-2, R179). -/
inductive NoticeSrc where
  | alert | mode | wind | miss | drained | quiet
deriving DecidableEq, Repr

/-- The first miss (R178). -/
structure MissInfo where
  helio    : Nat
  strategy : Nat
  duty     : Duty
deriving DecidableEq, Repr

/-- The notice part of the plant link port (R176); bit order of the sets in Table 10-4. -/
structure Notices where
  pend       : BitVec 6 := 0#6
  enable     : BitVec 6 := 0x3F#6
  due        : BitVec 6 := 0#6
  miss       : Option MissInfo := none
  missCount  : Nat := 0
  quiet      : Option Nat := none
  quietCount : Nat := 0
  seq        : Nat := 0
deriving DecidableEq, Repr

/-! ## Plant link port (chapter 10) -/

/-- The receiver (R180): hunting, or receiving with the bytes since the sync byte and the µs since the last byte. -/
inductive Rx where
  | hunting
  | receiving (bytes : List Byte) (gap : Nat)
deriving DecidableEq, Repr

/-- What is left of a request whose block takes it as several accesses, once the first has been served (R22, R182):
READ_HELIOSTATS, with the first index, how many records are still to be read and the entries read so far (R46);
RELEASE_HELIOSTAT 0xFFFF, with the next index (R43); HALT, with the index from which the next occupied record is taken (R153). -/
inductive Work where
  | read (first left : Nat) (entries : List (List Byte))
  | release (next : Nat)
  | halt (next : Nat)
deriving DecidableEq, Repr

/-- A request of the receive queue (R181); done once it has been carried out, with its work while it is carried out access by
access. -/
structure Req where
  kind    : Byte
  tag     : Byte
  payload : List Byte
  done    : Bool := false
  work    : Option Work := none
deriving DecidableEq, Repr

/-- A reply that is ready: the payloads of its segments, whether it is a FULL reply, and whether it is RESTART's. -/
structure Reply where
  kind     : Byte
  tag      : Byte
  segments : List (List Byte)
  full     : Bool := false
  restart  : Bool := false
deriving DecidableEq, Repr

/-- What a frame being sent belongs to: a reply with the segments still to send, or a notice. -/
inductive TxOrigin where
  | reply (full restart : Bool) (rest : List (List Byte))
  | notice (src : NoticeSrc)
deriving DecidableEq, Repr

/-- The frame being sent on PL_TXD (R179, R183). -/
structure TxFrame where
  kind    : Byte
  tag     : Byte
  payload : List Byte
  origin  : TxOrigin
deriving DecidableEq, Repr

/-- The plant link port less its notice part (R180, R181, R183, R186, R45). -/
structure Link where
  rx         : Rx := .hunting
  queue      : List Req := []
  fullList   : List (Byte × Byte) := []
  ready      : List Reply := []
  tx         : Option TxFrame := none
  restarting : Bool := false
  cursor     : Nat := 0
deriving DecidableEq, Repr

/-! ## The machine -/

/-- The whole state. inReset: the RESET line is asserted (R143, R183). pending: the commands that wait, first in first out. -/
structure State where
  helios   : Vector Helio Config.nHelio := Vector.replicate Config.nHelio {}
  classes  : Vector DriveClass Config.nClass := Vector.replicate Config.nClass {}
  standbys : Vector Point Config.nStandby := Vector.replicate Config.nStandby ⟨0, 0, 600000⟩
  entries  : Vector AimEntry Config.nSlot := Vector.replicate Config.nSlot {}
  drained  : List Nat := []
  zones    : Vector Zone Config.nZone := Vector.replicate Config.nZone {}
  sweep    : Sweep := {}
  lines    : Vector Line Config.nLine := Vector.replicate Config.nLine {}
  weather  : Weather := {}
  sup      : Sup := {}
  limits   : Config.Limits := {}
  exc      : Exc := {}
  notices  : Notices := {}
  link     : Link := {}
  inReset  : Bool := false
  pending  : List Instr := []
deriving DecidableEq, Repr

/-- The machine right after a cold reset, the RESET line released: every field at its cold-reset value (R1, R24, R29, R32,
R47, R62, R63, R65, R89, R112, R135, R151, R167, R176, R187); the two pins deasserted (log 20). -/
def State.reset : State := {}

/-- Faults: none. The part has no condition that stops it; its exceptions are effects on State (log 31). -/
inductive Fault where
deriving DecidableEq, Repr

/-- Refusals. -/
inductive Refusal where
  /-- Raised by Dispatch.lean alone, for a command that has no meaning yet. Safe: nothing is claimed of it. -/
  | notModelled (mnemonic : String)
deriving DecidableEq, Repr

/-- What a command answers. -/
abbrev Result := Host.Outcome State Fault Refusal

end Sys2Proof.Machine
end

