-- ==== Sys2Proof/Machine/Bytes.lean ====
section
/-! DEFINITION. Bytes and numbers (R189: most significant byte first, signed fields in two's complement), the CRC-16 of both
kinds of line (R118, R180), and the frames built from them. -/

namespace Sys2Proof.Machine

/-- The unsigned value of bytes, most significant first (R189). -/
def beNat (bs : List Byte) : Nat := bs.foldl (fun acc b => acc * 256 + b.toNat) 0

/-- The two's complement value of bytes, most significant first (R189). -/
def beInt (bs : List Byte) : Int :=
  let v := beNat bs
  if 2 * v < 256 ^ bs.length then (v : Int) else (v : Int) - (256 ^ bs.length : Nat)

/-- The n low bytes of a number, most significant first (R189). -/
def natBytes : (n : Nat) → (v : Nat) → List Byte
  | 0, _ => []
  | n + 1, v => natBytes n (v / 256) ++ [BitVec.ofNat 8 v]

/-- The n bytes of a signed number in two's complement, most significant first (R189). -/
def intBytes (n : Nat) (v : Int) : List Byte := natBytes n (v % ((256 ^ n : Nat) : Int)).toNat

/-- One byte. -/
def byte1 (v : Nat) : List Byte := [BitVec.ofNat 8 v]

/-- A flag as a byte, 0 or 1 (Table 10-4). -/
def boolByte (b : Bool) : List Byte := [if b then 1#8 else 0#8]

/-- A number whose bit k is the k-th flag of the list (the set bytes of Table 10-4). -/
def bitsOf : List Bool → Nat
  | [] => 0
  | b :: bs => (if b then 1 else 0) + 2 * bitsOf bs

/-- The field of a payload of n bytes at an offset, unsigned. -/
def fieldNat (p : List Byte) (off n : Nat) : Nat := beNat ((p.drop off).take n)

/-- The field of a payload of n bytes at an offset, signed. -/
def fieldInt (p : List Byte) (off n : Nat) : Int := beInt ((p.drop off).take n)

/-- One shift of the check register (polynomial x¹⁶ + x¹² + x⁵ + 1). -/
def crcShift (c : BitVec 16) : BitVec 16 :=
  if c.msb then (c <<< 1) ^^^ 0x1021#16 else c <<< 1

/-- One byte into the check: no reflection (R118, R180). -/
def crcByte (c : BitVec 16) (b : Byte) : BitVec 16 :=
  let c0 := c ^^^ ((b.zeroExtend 16) <<< 8)
  crcShift (crcShift (crcShift (crcShift (crcShift (crcShift (crcShift (crcShift c0)))))))

/-- The CRC-16 of R118 and R180: initial value 0xFFFF, no final inversion. -/
def crc16 (bs : List Byte) : BitVec 16 := bs.foldl crcByte 0xFFFF#16

/-- The two check bytes over a span, high byte first. -/
def crcBytes (bs : List Byte) : List Byte := natBytes 2 (crc16 bs).toNat

/-- Does a span followed by its two check bytes match (R180, R119)? -/
def crcMatches (bs : List Byte) : Bool :=
  decide ((crc16 (bs.take (bs.length - 2))).toNat = beNat (bs.drop (bs.length - 2)))

/-- The bytes after the sync byte of a plant link frame: LEN, kind, tag, payload, check (R180). -/
def plantFrameBody (kind tag : Byte) (payload : List Byte) : List Byte :=
  let span := BitVec.ofNat 8 (payload.length + 2) :: kind :: tag :: payload
  span ++ crcBytes span

/-- A whole plant link frame as sent (R180). -/
def plantFrame (kind tag : Byte) (payload : List Byte) : List Byte := 0xA5#8 :: plantFrameBody kind tag payload

/-- A poll frame as sent (R118, Table 10-10). -/
def pollFrame (addr : Nat) (move : Option Target) (watch : Nat) : List Byte :=
  let span := match move with
    | some t => byte1 addr ++ [0x02#8] ++ intBytes 3 t.az ++ intBytes 3 t.el ++ natBytes 2 watch
    | none => byte1 addr ++ [0x01#8] ++ natBytes 2 watch
  0x5A#8 :: (span ++ crcBytes span)

end Sys2Proof.Machine
end

