-- ==== Sys2Proof/Machine/Geometry.lean ====
section
/-! DEFINITION. The exact-real stages of the aiming computation (R6, R8 to R10, R12), carried out with 256 fractional bits and
rounded once at the end. Values are integers scaled by 2^256. Every error of the chain lies far below 2^-128 of a millidegree
(of a unit of the squared cosine factor), and a value within 2^-128 of a halfway point is taken as exactly halfway, so that
true ties round as R9 and R12 say (log 8). The two undefined or azimuth-free cases, S + T = 0 and a vertical normal, are not
found by a threshold: they are decided exactly on the integers (log 9). -/

namespace Sys2Proof.Machine

/-- The scale of the fixed-point numbers, 2^256. -/
abbrev fxOne : Int := 2 ^ 256

/-- What counts as exactly halfway: 2^-128 at the same scale. -/
abbrev fxSnap : Int := 2 ^ 128

/-- ⌊π · 2^256⌋. -/
def fxPi : Int := 363771576891766324280234942777729862653393377328392429958772151117938894466185

/-- Newton's iteration from above for the integer square root of n. -/
def isqrtLoop (n : Nat) : (fuel : Nat) → (x : Nat) → Nat
  | 0, x => x
  | fuel + 1, x =>
    let y := (x + n / x) / 2
    if y < x then isqrtLoop n fuel y else x

/-- The integer square root ⌊√n⌋ (of numbers below 2^1024, which all numbers here are). -/
def isqrt (n : Nat) : Nat := if n = 0 then 0 else isqrtLoop n 1024 (2 ^ (n.log2 / 2 + 1))

/-- The product of two scaled numbers. -/
def fxMul (a b : Int) : Int := a * b / fxOne

/-- An alternating Taylor tail: the term given, less the next, and so on; x2 is the square of the angle, k the last factor
of the factorial reached. -/
def taylor (x2 : Int) : (fuel : Nat) → (k : Int) → (term : Int) → Int
  | 0, _, _ => 0
  | fuel + 1, k, term => term + taylor x2 fuel (k + 2) (-(fxMul term x2) / ((k + 1) * (k + 2)))

/-- Sine and cosine of an angle of at most 45°, given in µdeg. -/
def sinCosSmall (u : Int) : Int × Int :=
  let x := u * fxPi / 180000000
  let x2 := fxMul x x
  (taylor x2 40 1 x, taylor x2 40 0 fxOne)

/-- Sine and cosine of an angle in 0..90,000,000 µdeg; past 45° by the complement. -/
def sinCosQuad (u : Int) : Int × Int :=
  if u ≤ 45000000 then sinCosSmall u
  else let p := sinCosSmall (90000000 - u); (p.2, p.1)

/-- Sine and cosine of any angle in µdeg, by quadrants. -/
def sinCos (u : Int) : Int × Int :=
  let r := u % 360000000
  let p := sinCosQuad (r % 90000000)
  if r < 90000000 then (p.1, p.2)
  else if r < 180000000 then (p.2, -p.1)
  else if r < 270000000 then (-p.1, -p.2)
  else (-p.2, p.1)

/-- The tangent of half the angle whose tangent is t. -/
def halveTan (t : Int) : Int :=
  t * fxOne / (fxOne + isqrt (fxOne * fxOne + t * t).toNat)

/-- The arctangent series Σ (-1)^j t^(2j+1)/(2j+1). -/
def atanSeries (t2 : Int) : (fuel : Nat) → (k : Int) → (power : Int) → Int
  | 0, _, _ => 0
  | fuel + 1, k, power => power / k + atanSeries t2 fuel (k + 2) (-(fxMul power t2))

/-- The arctangent, in scaled mdeg, of t in 0..1: the angle is halved three times first. -/
def atanUnit (t : Int) : Int :=
  let h := halveTan (halveTan (halveTan t))
  8 * atanSeries (fxMul h h) 45 1 h * 180000 * fxOne / fxPi

/-- The angle in 0°..90° whose tangent is y / x, for y and x not negative and not both 0, in scaled mdeg. -/
def quadrantAngle (y x : Int) : Int :=
  if y ≤ x then atanUnit (y * fxOne / x) else 90000 * fxOne - atanUnit (x * fxOne / y)

/-- Nearest integer, a scaled value not below 0, halves up (so away from zero). -/
def roundHalfUp (m : Int) : Int := (m + fxOne / 2 + fxSnap) / fxOne

/-- The azimuth of a horizontal direction (x east, y north), clockwise from north, rounded to mdeg in 0..359,999 (R9). -/
def azimuthMdeg (x y : Int) : Int :=
  let q := quadrantAngle |x| |y|
  let m :=
    if 0 ≤ x then (if 0 ≤ y then q else 180000 * fxOne - q)
    else (if 0 ≤ y then 360000 * fxOne - q else 180000 * fxOne + q)
  roundHalfUp m % 360000

/-- The elevation of a direction, rounded to mdeg, ties away from zero (R9). -/
def elevationMdeg (x y z : Int) : Int :=
  let h : Int := isqrt (x * x + y * y).toNat
  let r := roundHalfUp (quadrantAngle |z| h)
  if 0 ≤ z then r else -r

/-- Four times the squared cosine of an elevation in µdeg, where that square is rational: the elevations 0, ±30°, ±45°, ±60°
and ±90° (Niven's theorem; log 9). -/
def cosSq4 (el : Int) : Option Int :=
  if |el| = 0 then some 4
  else if |el| = 30000000 then some 3
  else if |el| = 45000000 then some 2
  else if |el| = 60000000 then some 1
  else if |el| = 90000000 then some 0
  else none

/-- Does the horizontal vector (x, y) point exactly away from the azimuth az in µdeg? Only multiples of 45° can have a vector
of integers exactly opposite (Niven's theorem; log 9). -/
def pointsAway (az x y : Int) : Bool :=
  if az = 0 then decide (x = 0 ∧ y < 0)
  else if az = 45000000 then decide (x = y ∧ y < 0)
  else if az = 90000000 then decide (y = 0 ∧ x < 0)
  else if az = 135000000 then decide (x = -y ∧ 0 < y)
  else if az = 180000000 then decide (x = 0 ∧ 0 < y)
  else if az = 225000000 then decide (x = y ∧ 0 < y)
  else if az = 270000000 then decide (y = 0 ∧ 0 < x)
  else if az = 315000000 then decide (x = -y ∧ y < 0)
  else false

/-- Are both horizontal components of S + T exactly 0 (R10)? d is A − P, not the zero vector. -/
def verticalNormal (az el : Int) (d : Point) : Bool :=
  match cosSq4 el with
  | none => false
  | some c =>
    decide (4 * (d.x * d.x + d.y * d.y) = c * (d.x * d.x + d.y * d.y + d.z * d.z))
      && (c == 0 || pointsAway az d.x d.y)

/-- Is S + T exactly the zero vector (R8)? -/
def exactlyOpposite (az el : Int) (d : Point) : Bool :=
  verticalNormal az el d && (decide (0 < el ∧ d.z < 0) || decide (el < 0 ∧ 0 < d.z) || decide (el = 0))

/-- The normal of the reflection (R9, R10): vertical, up or down, or an azimuth and an elevation in mdeg. -/
inductive Normal where
  | vertical (el : Int)
  | angles (az el : Int)
deriving DecidableEq, Repr

/-- The reflection stage and the cosine factor (R8, R9, R10, R12) for a sun at (az, el) in µdeg and d = A − P in mm: the
normal and cosq, or none for GEOMETRY. The vector S + T is formed scaled by |d|, which leaves its direction. -/
def reflect (az el : Int) (d : Point) : Option (Normal × Nat) :=
  if d.x = 0 ∧ d.y = 0 ∧ d.z = 0 then none
  else if exactlyOpposite az el d then none
  else
    let len : Int := isqrt ((d.x * d.x + d.y * d.y + d.z * d.z) * (fxOne * fxOne)).toNat
    let a := sinCos az
    let e := sinCos el
    let sx := fxMul a.1 e.2
    let sy := fxMul a.2 e.2
    let sz := e.1
    let vx := fxMul len sx + d.x * fxOne
    let vy := fxMul len sy + d.y * fxOne
    let vz := fxMul len sz + d.z * fxOne
    let dot := (sx * d.x + sy * d.y + sz * d.z) * fxOne / len
    let q : Int := (2 ^ 25 * (fxOne + dot) + fxSnap) / fxOne
    let cosq := min 4096 ((isqrt q.toNat + 1) / 2)
    let normal :=
      if verticalNormal az el d then Normal.vertical (if 0 ≤ vz then 90000 else -90000)
      else Normal.angles (azimuthMdeg vx vy) (elevationMdeg vx vy vz)
    some (normal, cosq)

end Sys2Proof.Machine
end

