-- ==== Sys2Proof/Machine/Aiming.lean ====
section
/-! DEFINITION. Sun evaluation (R3 to R5), conversion to counts (R11, R13 to R18), the RECEIVER and STANDBY computations (R19,
R20) and the STOW and DEFOCUS targets (R21). -/

namespace Sys2Proof.Machine

/-- A value brought into a range (00_scope.md, Rounding terms: Clamped). -/
def clampInt (lo hi v : Int) : Int := if v < lo then lo else if hi < v then hi else v

/-- A value brought into a range. -/
def clampNat (lo hi v : Nat) : Nat := if v < lo then lo else if hi < v then hi else v

/-- The nearest integer to p / q for q above 0, ties away from zero (R4). -/
def divNearestAway (p q : Int) : Int :=
  if 0 ≤ p then (2 * p + q) / (2 * q) else -((2 * (-p) + q) / (2 * q))

/-- The signed offset of plant time from the reference time, in −43,200,000..43,199,999 (R3). -/
def sunOffset (t tRef : Nat) : Int :=
  let d := (t : Int) - (tRef : Int)
  if 43200000 ≤ d then d - 86400000 else if d < -43200000 then d + 86400000 else d

/-- A sun evaluation for plant time t (R3 to R5). -/
def evalSun (l : Config.Limits) (r : SunRecord) (t : Nat) : SnapSun :=
  let dt := sunOffset t r.tRef
  let el := clampInt (-90000000) 90000000 (r.elRef + divNearestAway (r.elRate * dt) 1000)
  { az := (r.azRef + divNearestAway (r.azRate * dt) 1000) % 360000000
    el := el
    flags := { stale := decide ((l.sunValidity : Int) * 1000 < |dt|)
               low := decide (el < (l.minSunEl : Int) * 1000) } }

/-- Division by 1,000,000 rounded by the class round mode (R13). -/
def roundMillion (mode : RoundMode) (p : Int) : Int :=
  let f := p / 1000000
  let r := p % 1000000
  match mode with
  | .down => f
  | .up => if r = 0 then f else f + 1
  | .towardZero => if r = 0 ∨ 0 ≤ p then f else f + 1
  | .nearestEven => if r < 500000 then f else if 500000 < r then f + 1 else if f % 2 = 0 then f else f + 1

/-- The conversion of an angle difference in mdeg to counts (R13). -/
def toCounts (c : DriveClass) (gain : Nat) (delta : Int) : Int := roundMillion c.round (delta * gain)

/-- The current azimuth count, 0 when neither position is present (R14). -/
def currentAz (h : Helio) : Int :=
  match h.commanded, h.reported with
  | some t, _ => t.az
  | none, some r => r.az
  | none, none => 0

/-- The current counts of a DEFOCUS target (R14). -/
def currentCounts (h : Helio) : Option (Int × Int) :=
  match h.commanded, h.reported with
  | some t, _ => some (t.az, t.el)
  | none, some r => some (r.az, r.el)
  | none, none => none

/-- The first difference of the azimuth stage, in (−180,000, 180,000] (R16). -/
def azDifference (azc azRef : Int) : Int :=
  let m := (azc - azRef) % 360000
  if m ≤ 180000 then m else m - 360000

/-- The three candidate counts (R16). -/
def azCandidates (c : DriveClass) (azc : Int) : List Int :=
  let d := azDifference azc c.azRef
  [toCounts c c.azGain (d - 360000), toCounts c c.azGain d, toCounts c c.azGain (d + 360000)]

/-- Is a first, of distance da to the current count, preferred to b of distance db: nearer, then of smaller magnitude, then
positive (R17)? -/
def preferred (da a db b : Int) : Bool :=
  decide (da < db) || (decide (da = db) && (decide (|a| < |b|) || (decide (|a| = |b|) && decide (b ≤ a))))

/-- The preferred count among several (R17). -/
def nearestOf (cur : Int) : List Int → Option Int
  | [] => none
  | a :: rest =>
    match nearestOf cur rest with
    | none => some a
    | some b => if preferred |a - cur| a |b - cur| b then some a else some b

/-- The candidate that needs the least clamping, clamped; ties by R18's order: nearer the current count, then smaller
magnitude, then positive. -/
def leastClamped (c : DriveClass) (cur : Int) : List Int → Option (Int × Int)
  | [] => none
  | a :: rest =>
    let ca := clampInt c.azMin c.azMax a
    let need := |a - ca|
    match leastClamped c cur rest with
    | none => some (need, ca)
    | some (n', cb) =>
      if need < n' ∨ (need = n' ∧ preferred |ca - cur| ca |cb - cur| cb) then some (need, ca) else some (n', cb)

/-- Inside azimuth travel. -/
def insideAz (c : DriveClass) (v : Int) : Bool := decide (c.azMin ≤ v) && decide (v ≤ c.azMax)

/-- Inside elevation travel. -/
def insideEl (c : DriveClass) (v : Int) : Bool := decide (c.elMin ≤ v) && decide (v ≤ c.elMax)

/-- Failures of the aiming computation (R19). -/
inductive AimFail where
  | geometry
  | travel
deriving DecidableEq, Repr

/-- The azimuth count of a normal that is not vertical: R17, then for a STANDBY target R18. -/
def azimuthCount (c : DriveClass) (h : Helio) (standby : Bool) (azc : Int) : Option Int :=
  let cur := currentAz h
  let cands := azCandidates c azc
  match nearestOf cur (cands.filter (insideAz c)) with
  | some a => some a
  | none => if standby then (leastClamped c cur cands).map (·.2) else none

/-- The counts of both axes; the elevation stage comes first (R15). -/
def normalCounts (c : DriveClass) (h : Helio) (standby : Bool) (n : Normal) : Option (Int × Int) :=
  let elN := match n with
    | .vertical el => el
    | .angles _ el => el
  let el := toCounts c c.elGain (elN + h.elCal - c.elRef)
  if insideEl c el = false ∧ standby = false then none
  else
    let el' := clampInt c.elMin c.elMax el
    match n with
    | .vertical _ => some (clampInt c.azMin c.azMax (currentAz h), el')
    | .angles az _ => (azimuthCount c h standby (az + h.azCal)).map (fun a => (a, el'))

/-- The aiming computation toward A, of kind STANDBY or RECEIVER (R19, R20): a target and its cosine factor, or the failure. -/
def aimAt (standby : Bool) (sun : SnapSun) (c : DriveClass) (h : Helio) (a : Point) : Except AimFail (Target × Nat) :=
  match reflect sun.az sun.el ⟨a.x - h.pivot.x, a.y - h.pivot.y, a.z - h.pivot.z⟩ with
  | none => .error .geometry
  | some (n, cosq) =>
    match normalCounts c h standby n with
    | none => .error .travel
    | some (az, el) => .ok (⟨if standby then .standby else .receiver, az, el⟩, cosq)

/-- The point A of a RECEIVER target (R7). -/
def receiverPoint (e : AimEntry) (h : Helio) : Point := ⟨e.aim.x, e.aim.y, e.aim.z + h.aimOff⟩

/-- The STOW target of a class (R21). -/
def stowTarget (c : DriveClass) : Target := ⟨.stow, c.stowAz, c.stowEl⟩

/-- The DEFOCUS target of a record (R21). -/
def defocusTarget (c : DriveClass) (h : Helio) : Target :=
  match currentCounts h with
  | none => ⟨.defocus, c.stowAz, c.stowEl⟩
  | some (az, el) =>
    let e0 := clampInt c.elMin c.elMax el
    let e1 := clampInt c.elMin c.elMax (e0 + c.defocus)
    ⟨.defocus, clampInt c.azMin c.azMax az, if e1 = e0 then clampInt c.elMin c.elMax (e0 - c.defocus) else e1⟩

/-- A target with each count clamped into a class's travel (R31, R36). -/
def Target.clampTo (c : DriveClass) (t : Target) : Target :=
  { t with az := clampInt c.azMin c.azMax t.az, el := clampInt c.elMin c.elMax t.el }

/-- The contribution C (R72): ⌈w × cosq × dni / 4,096,000⌉. -/
def contribution (w cosq dni : Nat) : Nat := (w * cosq * dni + 4095999) / 4096000

end Sys2Proof.Machine
end

