-- ==== Sys2Proof/Machine/Flags.lean ====
section
/-! DEFINITION. The exception flags, masks, latch, fault record and ALERT (R168 to R171), and the notice flags (R177, R178). -/

namespace Sys2Proof.Machine

/-- The code of an exception kind (Table 9-1). -/
def ExcKind.code : ExcKind → Nat
  | .driveFault => 0 | .driveLost => 1 | .lag => 2 | .aimMiss => 3 | .aimDenied => 4 | .geometry => 5 | .travel => 6
  | .flux => 7 | .staleSun => 8 | .sunLow => 9 | .windStow => 10 | .lineStow => 11 | .permitDrop => 12
  | .linkSilent => 13 | .sweepOverrun => 14 | .dniSensor => 15

/-- Is it one of the eight heliostat kinds (Table 9-1)? -/
def ExcKind.isHelio (k : ExcKind) : Bool := decide (k.code < 8)

/-- The flag bit of a kind. -/
def ExcKind.bit (k : ExcKind) : BitVec 16 := 1#16 <<< k.code

/-- Is the kind masked? -/
def Exc.masked (e : Exc) (k : ExcKind) : Bool := e.masks.getLsbD k.code

/-- The ALERT level of flags under masks: some flag set whose kind is unmasked (R171). -/
def alertLevel (flags masks : BitVec 16) : Bool := decide (flags &&& ~~~masks ≠ 0#16)

/-- The bit of a notice source (Table 10-4, Notice set). -/
def NoticeSrc.bit : NoticeSrc → BitVec 6
  | .alert => 1#6 | .mode => 2#6 | .wind => 4#6 | .miss => 8#6 | .drained => 16#6 | .quiet => 32#6

/-- Is the source's bit in the set? -/
def inSet (set : BitVec 6) (src : NoticeSrc) : Bool := decide (set &&& src.bit ≠ 0#6)

/-- A source is raised (R177). -/
def Notices.raise (src : NoticeSrc) (n : Notices) : Notices :=
  if inSet n.pend src then n
  else { n with pend := n.pend ||| src.bit, due := if inSet n.enable src then n.due ||| src.bit else n.due }

/-- The clearing read of a set of sources: pending flags and due indications clear (R176). -/
def Notices.clearSet (set : BitVec 6) (n : Notices) : Notices :=
  { n with pend := n.pend &&& ~~~set, due := n.due &&& ~~~set }

/-- The MISS source is raised by an AIM_MISS (R178): the first miss is kept while the flag is set, later ones are counted. -/
def Notices.raiseMiss (info : MissInfo) (n : Notices) : Notices :=
  if inSet n.pend .miss then { n with missCount := min 65535 (n.missCount + 1) }
  else { n.raise .miss with miss := some info, missCount := 1 }

/-- The QUIET source is raised by a drive change in QUIET (R130, R178). -/
def Notices.raiseQuiet (helio : Nat) (n : Notices) : Notices :=
  if inSet n.pend .quiet then { n with quietCount := min 65535 (n.quietCount + 1) }
  else { n.raise .quiet with quiet := some helio, quietCount := 1 }

/-- A notice source is raised in the state. -/
def notice (src : NoticeSrc) (s : State) : State := { s with notices := s.notices.raise src }

/-- Flags and masks change, and ALERT is evaluated anew; its change to asserted raises the ALERT source (R171). -/
def setExc (e : Exc) (s : State) : State :=
  let level := alertLevel e.flags e.masks
  { s with
    exc := { e with alert := level }
    notices := if level && !s.exc.alert then s.notices.raise .alert else s.notices }

/-- The exception unit after an occurrence, ALERT apart (R168, R169). -/
def Exc.record (e : Exc) (k : ExcKind) (now : Nat) (helio zone slot : Option Nat) : Exc :=
  let f := { e with flags := e.flags ||| k.bit }
  if e.masked k then f
  else { f with
    fault := match e.fault with
      | some r => some r
      | none => some ⟨k, now, helio, zone, slot⟩
    count := min 65535 (e.count + 1) }

/-- The heliostat record after an occurrence of a heliostat kind: last exception kind, and the latch when unmasked. -/
def Helio.recordExc (k : ExcKind) (masked : Bool) (h : Helio) : Helio :=
  { h with lastExc := some k, latched := h.latched || !masked }

/-- An exception occurrence for heliostat i (R168 to R171), with the zone and slot where the occurrence carries them. -/
def raiseHelio (k : ExcKind) (i : Nat) (zone slot : Option Nat) (s : State) : State :=
  let s1 := { s with helios := s.helios.setIfInBounds i ((s.helios[i]?.getD {}).recordExc k (s.exc.masked k)) }
  setExc (s.exc.record k s.sup.plantTime (some i) zone slot) s1

/-- An occurrence of a field kind (R168 to R171). -/
def raiseField (k : ExcKind) (s : State) : State :=
  setExc (s.exc.record k s.sup.plantTime none none none) s

end Sys2Proof.Machine
end

