-- ==== Sys2Proof/Machine/Ops.lean ====
section
/-! DEFINITION. The shared operations on the tables: reading and writing a record, posting a target (R33 to R36), the
reservation operations with the zone sums and user counts they carry (R58, R61, R73 to R85), and the field mode with the
permit composed from it (R90, R91, R151, R154, R159, R160, R162). -/

namespace Sys2Proof.Machine

/-! ## Reading and writing -/

/-- The heliostat record at an index; past the table, a VACANT one. -/
def State.helio (s : State) (i : Nat) : Helio := s.helios[i]?.getD {}

/-- One heliostat record replaced. -/
def State.setHelio (s : State) (i : Nat) (h : Helio) : State := { s with helios := s.helios.setIfInBounds i h }

/-- Every heliostat record taken through f, whether occupied or not. -/
def State.mapHelios (s : State) (f : Helio → Helio) : State :=
  { s with helios := ⟨(s.helios.toList.map f).toArray, by simp⟩ }

/-- A drive class. -/
def State.driveClass (s : State) (c : Nat) : DriveClass := s.classes[c]?.getD {}

/-- The class of a record. -/
def State.classOf (s : State) (i : Nat) : DriveClass := s.driveClass (s.helio i).cls

/-- A standby point. -/
def State.standbyPoint (s : State) (n : Nat) : Point := s.standbys[n]?.getD ⟨0, 0, 0⟩

/-- An aim entry. -/
def State.entry (s : State) (k : Nat) : AimEntry := s.entries[k]?.getD {}

/-- One aim entry replaced. -/
def State.setEntry (s : State) (k : Nat) (e : AimEntry) : State := { s with entries := s.entries.setIfInBounds k e }

/-- A zone record. -/
def State.zone (s : State) (z : Nat) : Zone := s.zones[z]?.getD {}

/-- One zone record replaced. -/
def State.setZone (s : State) (z : Nat) (r : Zone) : State := { s with zones := s.zones.setIfInBounds z r }

/-- A field line. -/
def State.line (s : State) (n : Nat) : Line := s.lines[n]?.getD {}

/-- One field line replaced. -/
def State.setLine (s : State) (n : Nat) (l : Line) : State := { s with lines := s.lines.setIfInBounds n l }

/-- A record is occupied in any state but VACANT. -/
def Helio.occupied (h : Helio) : Bool := h.st != .vacant

/-- A holder that a protective action or a failed visit can send LEAVING. -/
def Helio.holder (h : Helio) : Bool :=
  match h.st with
  | .approach | .onTarget | .retarget => true
  | .vacant | .idle | .clear | .leaving => false

/-- Does the record hold a reservation? -/
def Helio.reserved (h : Helio) : Bool := h.primary.isSome || h.transfer.isSome

/-- A record with its state changed: a change of state zeroes the lag count (R26). -/
def Helio.toState (st : HState) (h : Helio) : Helio := if h.st = st then h else { h with st := st, lag := 0 }

/-- The first index from i on, of fuel many, that satisfies p. -/
def firstFrom (p : Nat → Bool) : (fuel : Nat) → (i : Nat) → Option Nat
  | 0, _ => none
  | fuel + 1, i => if p i then some i else firstFrom p fuel (i + 1)

/-- The index of the first record of a list that satisfies p, the list's head being record i. -/
def firstRecord (p : Helio → Bool) : List Helio → (i : Nat) → Option Nat
  | [], _ => none
  | h :: rest, i => if p h then some i else firstRecord p rest (i + 1)

/-- The first occupied index at or above i. -/
def State.nextOccupied (s : State) (i : Nat) : Option Nat := firstRecord Helio.occupied (s.helios.toList.drop i) i

/-- Does any record hold a reservation (R153)? -/
def State.anyReserved (s : State) : Bool := s.helios.toList.any (·.reserved)

/-! ## Posting (R33 to R36) -/

/-- DEFOCUS and STOW are urgent. -/
def TargetKind.urgent : TargetKind → Bool
  | .defocus | .stow => true
  | .receiver | .standby => false

/-- Table 2-5: does an offer of the first kind replace a pending target of the second? -/
def TargetKind.replaces : TargetKind → TargetKind → Bool
  | .stow, _ => true
  | .defocus, .stow => false
  | .defocus, _ => true
  | .receiver, p | .standby, p => !p.urgent

/-- The deadband suppression of R34. -/
def suppressed (deadband : Nat) (commanded : Option Target) (t : Target) : Bool :=
  match commanded with
  | none => false
  | some c => decide (c.kind = t.kind) && decide (|c.az - t.az| < deadband) && decide (|c.el - t.el| < deadband)

/-- The posting rule on one record (R34, R35). -/
def Helio.post (deadband : Nat) (t : Target) (h : Helio) : Helio :=
  match h.pendingT with
  | none => if !t.kind.urgent && suppressed deadband h.commanded t then h else { h with pendingT := some t }
  | some p => if t.kind.replaces p.kind then { h with pendingT := some t } else h

/-- A target offered to a record; an offer to a VACANT record posts nothing (R33). -/
def offer (i : Nat) (t : Target) (s : State) : State :=
  if (s.helio i).occupied then s.setHelio i ((s.helio i).post (s.classOf i).deadband t) else s

/-- An accepted delivery: the carried target becomes commanded, clamped to travel; a RECEIVER also becomes the last receiver
target; an equal pending target is cleared (R36). -/
def Helio.deliver (c : DriveClass) (t : Target) (h : Helio) : Helio :=
  let w := t.clampTo c
  { h with
    commanded := some w
    lastRecv := if t.kind = .receiver then some (w.az, w.el) else h.lastRecv
    pendingT := if h.pendingT = some t then none else h.pendingT }

/-- A record's targets refitted to a class's travel (R31, R39). -/
def Helio.refit (c : DriveClass) (h : Helio) : Helio :=
  { h with
    commanded := h.commanded.map (Target.clampTo c)
    pendingT := h.pendingT.map (fun t => if t.kind = .stow then stowTarget c else t.clampTo c) }

/-- The record with its dynamic fields cleared (R24). -/
def Helio.cleared (h : Helio) : Helio :=
  { h with
    st := .idle, latched := false, lost := false, isLocal := false, faulted := false, misses := 0, lag := 0
    commanded := none, pendingT := none, lastRecv := none, reported := none, primary := none, transfer := none
    lastExc := none }

/-! ## User counts and drain (R58, R61) -/

/-- A reservation comes to name slot k. -/
def incUser (k : Nat) (s : State) : State :=
  s.setEntry k { s.entry k with users := (s.entry k).users + 1 }

/-- A reservation ceases to name slot k; the last user of a DRAINING entry frees it, adds it to the drained list (at most
once, R62) and raises the DRAINED source. -/
def decUser (k : Nat) (s : State) : State :=
  let e := s.entry k
  let u := e.users - 1
  if e.st = .draining ∧ u = 0 then
    notice .drained
      { s.setEntry k { e with users := 0, st := .free } with
        drained := if k ∈ s.drained then s.drained else s.drained ++ [k] }
  else s.setEntry k { e with users := u }

/-! ## Reservations and zone sums -/

/-- The admission test (R73). -/
def admits (z : Zone) (c : Nat) : Bool := decide (z.committed + c ≤ z.active)

/-- The refresh test (R76): projected sum less the amount held plus the new contribution. -/
def refreshes (z : Zone) (held c : Nat) : Bool :=
  decide ((z.committed : Int) - z.leaving - held + c ≤ z.active)

/-- A primary reservation is created, and the heliostat becomes APPROACH (R73). -/
def admitPrimary (i : Nat) (r : Reservation) (s : State) : State :=
  let s1 := s.setHelio i ({ s.helio i with primary := some r }.toState .approach)
  incUser r.slot (s1.setZone r.zone { s1.zone r.zone with committed := (s1.zone r.zone).committed + r.amount })

/-- A transfer reservation is created, and the heliostat becomes RETARGET (R75). -/
def admitTransfer (i : Nat) (r : Reservation) (s : State) : State :=
  let s1 := s.setHelio i ({ s.helio i with transfer := some r }.toState .retarget)
  incUser r.slot (s1.setZone r.zone { s1.zone r.zone with committed := (s1.zone r.zone).committed + r.amount })

/-- A zone's committed sum follows an amount changed from a to c (R76). -/
def reprice (zone a c : Nat) (s : State) : State :=
  s.setZone zone { s.zone zone with committed := (s.zone zone).committed + c - a }

/-- The primary reservation's amount becomes c (R76). -/
def refreshPrimary (i c : Nat) (s : State) : State :=
  match (s.helio i).primary with
  | none => s
  | some r => reprice r.zone r.amount c (s.setHelio i { s.helio i with primary := some { r with amount := c } })

/-- The transfer reservation's amount becomes c (R78). -/
def refreshTransfer (i c : Nat) (s : State) : State :=
  match (s.helio i).transfer with
  | none => s
  | some r => reprice r.zone r.amount c (s.setHelio i { s.helio i with transfer := some { r with amount := c } })

/-- The primary reservation comes to name slot k in the same zone; the user counts move (R80). -/
def moveSlot (i k : Nat) (s : State) : State :=
  match (s.helio i).primary with
  | none => s
  | some r => incUser k (decUser r.slot (s.setHelio i { s.helio i with primary := some { r with slot := k } }))

/-- A reservation's amount enters the leaving sum of its zone. -/
def addLeaving (r : Option Reservation) (s : State) : State :=
  match r with
  | none => s
  | some r => s.setZone r.zone { s.zone r.zone with leaving := (s.zone r.zone).leaving + r.amount }

/-- Entry into LEAVING of a holder (R81); a record that is no holder, LEAVING included, is left as it is. -/
def enterLeaving (i : Nat) (s : State) : State :=
  let h := s.helio i
  if h.holder then addLeaving h.transfer (addLeaving h.primary (s.setHelio i (h.toState .leaving))) else s

/-- A reservation leaves the sums of its zone and the users of its slot (R83). -/
def releaseSums (fromLeaving : Bool) (r : Option Reservation) (s : State) : State :=
  match r with
  | none => s
  | some r =>
    let z := s.zone r.zone
    decUser r.slot (s.setZone r.zone
      { z with committed := z.committed - r.amount, leaving := if fromLeaving then z.leaving - r.amount else z.leaving })

/-- Every reservation of a LEAVING record is released and the record becomes CLEAR (R84, R85). Of two DRAINING slots that one access
frees, the primary's joins the drained list first, then the transfer's: the spec gives no order (DESIGN CHOICE, log 33). -/
def releaseAll (i : Nat) (s : State) : State :=
  let h := s.helio i
  releaseSums true h.transfer (releaseSums true h.primary
    (s.setHelio i ({ h with primary := none, transfer := none }.toState .clear)))

/-- Arrival in RETARGET: the old reservation is released, the transfer promoted, the record ON_TARGET (R85). -/
def promote (i : Nat) (s : State) : State :=
  let h := s.helio i
  releaseSums false h.primary (s.setHelio i ({ h with primary := h.transfer, transfer := none }.toState .onTarget))

/-! ## Lookup (R48 to R51) -/

/-- Does the span contain the index (R48)? -/
def AimEntry.spans (e : AimEntry) (h : Nat) : Bool := decide (e.base ≤ h) && decide (h < e.base + e.size)

/-- Does the entry apply under the strategy (R49)? -/
def AimEntry.applies (e : AimEntry) (strategy : Nat) : Bool := e.shared || e.strategy == strategy

/-- Does the entry match the pair (R49)? -/
def AimEntry.matches (e : AimEntry) (h strategy : Nat) : Bool := e.st == .enabled && e.spans h && e.applies strategy

/-- Does the entry's set permit the duty (R50)? OUT_OF_SERVICE is in no set. -/
def AimEntry.permits (e : AimEntry) (d : Duty) : Bool :=
  match d with
  | .operate => e.duties.getLsbD 0
  | .preheat => e.duties.getLsbD 1
  | .calibrate => e.duties.getLsbD 2
  | .outOfService => false

/-- The outcome of a lookup (R51); denied and found carry the slot. -/
inductive Lookup where
  | miss
  | denied (slot : Nat)
  | found (slot : Nat)
deriving DecidableEq, Repr

/-- The lookup of (h, strategy, duty) (R51). -/
def State.lookup (s : State) (h strategy : Nat) (d : Duty) : Lookup :=
  match firstFrom (fun k => (s.entry k).matches h strategy) Config.nSlot 0 with
  | none => .miss
  | some k => if (s.entry k).permits d then .found k else .denied k

/-! ## Permit and mode -/

/-- Permit in force (R159). -/
def State.permit (s : State) : Bool := s.sup.grant && s.weather.permitIn.level && s.sup.mode == .tracking

/-- The field defocus is triggered: the pass starts, or starts again, from index 0 (R162). -/
def triggerDefocus (s : State) : State := { s with sup := { s.sup with defocusPass := some 0 } }

/-- The permit is composed anew after a change of the grant or of the PERMIT level (R159, R160). before: whether it was in
force; excepted: the drop raises PERMIT_DROP (the line and silence, not REVOKE_PERMIT). -/
def composePermit (before excepted : Bool) (s : State) : State :=
  if before = s.permit then s
  else if before then
    triggerDefocus (if excepted then raiseField .permitDrop (notice .mode s) else notice .mode s)
  else notice .mode s

/-- The field mode changes (R151): leaving TRACKING stops the sweep timer and clears start waiting (R90, R91); the permit
that changes with it triggers nothing (R160). -/
def setMode (m : Mode) (s : State) : State :=
  if s.sup.mode = m then s
  else notice .mode
    { s with
      sup := { s.sup with mode := m }
      sweep := if s.sup.mode = .tracking then { s.sweep with timer := .stopped, startWaiting := false } else s.sweep }

/-- One of the three causes moves the field to STOWING and begins the stow pass (R154). -/
def enterStowing (s : State) : State :=
  match s.sup.mode with
  | .halted | .tracking =>
    let s1 := setMode .stowing s
    { s1 with sup := { s1.sup with stowPass := some 0 } }
  | .stowing | .stowed | .quiet => s

/-- Within a tolerance. -/
def within (tol : Nat) (a b : Int) : Bool := decide (|a - b| ≤ tol)

/-- Are the reported counts within the class tolerance of the target, and the reply settled? -/
def settledAt (c : DriveClass) (r : Reported) (t : Target) : Bool :=
  r.settled && within c.tolerance r.az t.az && within c.tolerance r.el t.el

/-- A counted record is stowed (R156). -/
def Helio.stowed (c : DriveClass) (h : Helio) : Bool :=
  match h.commanded, h.reported with
  | some t, some r => decide (t.kind = .stow) && h.pendingT.isNone && settledAt c r t
  | _, _ => false

/-- Every counted record is stowed: occupied, neither LOST nor LOCAL (R156). -/
def State.stowHolds (s : State) : Bool :=
  s.helios.toList.all (fun h => !h.occupied || h.lost || h.isLocal || h.stowed (s.driveClass h.cls))

/-- The stow test, made in STOWING once the stow pass has ended, and in STOWED (R156). -/
def stowTest (s : State) : State :=
  match s.sup.mode with
  | .stowing => if s.sup.stowPass.isNone && s.stowHolds then setMode .stowed s else s
  | .stowed => if s.stowHolds then s else setMode .stowing s
  | .halted | .tracking | .quiet => s

end Sys2Proof.Machine
end

