-- ==== Sys2Proof/Machine/Operands.lean ====
section
/-! DEFINITION. The operand forms of the requests (payload fields, Table 10-3) and the content of the replies (section 10.6):
codes and sets of Table 10-4, entries of Table 10-7, records of Tables 10-8 and 10-9. -/

namespace Sys2Proof.Machine

/-! ## Codes (Table 10-4) -/

def HState.code : HState → Nat
  | .vacant => 0 | .idle => 1 | .clear => 2 | .approach => 3 | .onTarget => 4 | .retarget => 5 | .leaving => 6

def TargetKind.code : TargetKind → Nat
  | .receiver => 0 | .standby => 1 | .defocus => 2 | .stow => 3

def Duty.code : Duty → Nat
  | .operate => 0 | .preheat => 1 | .calibrate => 2 | .outOfService => 3

/-- The duty of a code, none for a code that names no duty. -/
def dutyOf : Nat → Option Duty
  | 0 => some .operate
  | 1 => some .preheat
  | 2 => some .calibrate
  | 3 => some .outOfService
  | _ => none

def RoundMode.code : RoundMode → Nat
  | .nearestEven => 0 | .down => 1 | .up => 2 | .towardZero => 3

/-- The round mode of a code. -/
def roundModeOf : Nat → Option RoundMode
  | 0 => some .nearestEven
  | 1 => some .down
  | 2 => some .up
  | 3 => some .towardZero
  | _ => none

/-- The span size of a code. -/
def spanSizeOf : Nat → Option Nat
  | 0 => some 1
  | 1 => some 8
  | 2 => some 64
  | 3 => some 512
  | _ => none

/-- The code of a span size. -/
def spanCode (size : Nat) : Nat := if size = 1 then 0 else if size = 8 then 1 else if size = 64 then 2 else 3

/-- A flag byte: 0 or 1, none for any other value (R189). -/
def flagOf : Nat → Option Bool
  | 0 => some false
  | 1 => some true
  | _ => none

/-- A duty set byte: no bit outside the three defined (R189). -/
def dutySetOf (v : Nat) : Option (BitVec 3) := if v < 8 then some (BitVec.ofNat 3 v) else none

/-- A notice set byte: no bit outside the six defined (R189). -/
def noticeSetOf (v : Nat) : Option (BitVec 6) := if v < 64 then some (BitVec.ofNat 6 v) else none

def AimState.code : AimState → Nat
  | .free => 0 | .enabled => 1 | .draining => 2

def Mode.code : Mode → Nat
  | .halted => 0 | .tracking => 1 | .stowing => 2 | .stowed => 3 | .quiet => 4

def Wind.code : Wind → Nat
  | .calm => 0 | .windy => 1 | .settling => 2

/-- The sun state code: NONE, FRESH, STALE, LOW (R5). -/
def sunStateCode : Option SunFlags → Nat
  | none => 0
  | some f => if f.stale then 2 else if f.low then 3 else 1

/-- Result codes (Table 10-2). -/
inductive ResultCode where
  | ok | unknownKind | badLength | badField | full | wrongMode | wrongState | busy | reserved | inUse
  | overlap | align | noClass | addressTaken | noTime | noSun | windy | line
deriving DecidableEq, Repr

def ResultCode.byte : ResultCode → Byte
  | .ok => 0x00#8 | .unknownKind => 0x01#8 | .badLength => 0x02#8 | .badField => 0x03#8 | .full => 0x04#8
  | .wrongMode => 0x10#8 | .wrongState => 0x11#8 | .busy => 0x12#8 | .reserved => 0x13#8 | .inUse => 0x14#8
  | .overlap => 0x20#8 | .align => 0x21#8 | .noClass => 0x22#8 | .addressTaken => 0x23#8
  | .noTime => 0x30#8 | .noSun => 0x31#8 | .windy => 0x40#8 | .line => 0x41#8

/-! ## Request fields -/

/-- In a range, inclusive at both ends. -/
def inRange (lo hi v : Int) : Bool := decide (lo ≤ v) && decide (v ≤ hi)

/-- The drive class that LOAD_CLASS carries (Table 10-3), with its valid flag set; none when the round mode code names no mode. -/
def readClassFields (p : List Byte) : Option DriveClass :=
  (roundModeOf (fieldNat p 29 1)).map (fun mode =>
    { valid := true
      azGain := fieldNat p 1 4, elGain := fieldNat p 5 4, azRef := fieldNat p 9 4, elRef := fieldInt p 13 4
      azMin := fieldInt p 17 3, azMax := fieldInt p 20 3, elMin := fieldInt p 23 3, elMax := fieldInt p 26 3
      round := mode, deadband := fieldNat p 30 2, tolerance := fieldNat p 32 2, clearDist := fieldNat p 34 2
      defocus := fieldInt p 36 3, stowAz := fieldInt p 39 3, stowEl := fieldInt p 42 3
      approachLimit := fieldNat p 45 1, lagLimit := fieldNat p 46 1 })

/-- The range checks of LOAD_CLASS (R30, Table 2-4). -/
def DriveClass.inRanges (c : DriveClass) : Bool :=
  inRange 1000 100000000 c.azGain && inRange 1000 100000000 c.elGain && inRange 0 359999 c.azRef
    && inRange (-90000) 90000 c.elRef
    && decide (c.azMin ≤ c.azMax) && decide (c.elMin ≤ c.elMax)
    && inRange 0 4095 c.deadband && inRange 1 4095 c.tolerance && inRange 1 65535 c.clearDist
    && inRange (-65535) 65535 c.defocus && decide (c.defocus ≠ 0)
    && inRange c.azMin c.azMax c.stowAz && inRange c.elMin c.elMax c.stowEl
    && inRange 1 255 c.approachLimit && inRange 1 255 c.lagLimit

/-- The static fields that LOAD_HELIOSTAT carries (Table 10-3), in an otherwise cleared record in state IDLE; none when the duty code names no
duty. -/
def readHelioFields (p : List Byte) : Option Helio :=
  (dutyOf (fieldNat p 26 1)).map (fun duty =>
    { st := .idle, line := fieldNat p 2 1, addr := fieldNat p 3 1, cls := fieldNat p 4 1
      pivot := ⟨fieldInt p 5 4, fieldInt p 9 4, fieldInt p 13 4⟩
      azCal := fieldInt p 17 2, elCal := fieldInt p 19 2, aimOff := fieldInt p 21 2
      standby := fieldNat p 23 1, weight := fieldNat p 24 2, duty := duty })

/-- The range checks of LOAD_HELIOSTAT's fields (R37, Table 2-1). -/
def Helio.inRanges (h : Helio) : Bool :=
  decide (h.line ≤ 7) && decide (h.cls ≤ 7)
    && inRange (-2000000) 2000000 h.pivot.x && inRange (-2000000) 2000000 h.pivot.y && inRange (-50000) 50000 h.pivot.z
    && inRange (-5000) 5000 h.azCal && inRange (-5000) 5000 h.elCal && inRange (-10000) 10000 h.aimOff
    && decide (h.standby ≤ 3)

/-- A record with the static fields of another (R23). -/
def Helio.withStatic (h fields : Helio) : Helio :=
  { h with
    line := fields.line, addr := fields.addr, cls := fields.cls, pivot := fields.pivot
    azCal := fields.azCal, elCal := fields.elCal, aimOff := fields.aimOff
    standby := fields.standby, weight := fields.weight, duty := fields.duty }

/-- The aim entry that LOAD_AIM carries, ENABLED with no users (R53, R55); none when a code, the flag or the set is none. -/
def readAimFields (p : List Byte) : Option AimEntry :=
  match spanSizeOf (fieldNat p 5 1), flagOf (fieldNat p 2 1), dutySetOf (fieldNat p 19 1) with
  | some size, some shared, some duties =>
    some { st := .enabled, strategy := fieldNat p 1 1, shared := shared, base := fieldNat p 3 2, size := size
           aim := ⟨fieldInt p 6 4, fieldInt p 10 4, fieldInt p 14 4⟩, zone := fieldNat p 18 1, duties := duties, users := 0 }
  | _, _, _ => none

/-- The range checks of LOAD_AIM's fields (R53, check 1; Table 3-1). -/
def AimEntry.inRanges (e : AimEntry) : Bool :=
  decide (e.strategy ≤ 15) && inRange (-50000) 50000 e.aim.x && inRange (-50000) 50000 e.aim.y
    && inRange 0 400000 e.aim.z && decide (e.zone ≤ 127)

/-- Do two spans intersect (R48)? -/
def AimEntry.intersects (a b : AimEntry) : Bool := decide (a.base < b.base + b.size) && decide (b.base < a.base + a.size)

/-- Does an ENABLED entry conflict with a new one (R54)? -/
def AimEntry.conflicts (new old : AimEntry) : Bool :=
  old.st == .enabled && new.intersects old && (new.shared || old.shared || new.strategy == old.strategy)

/-- A payload cut into chunks of k bytes, as many as the fuel allows. -/
def chunks (k : Nat) : (fuel : Nat) → List Byte → List (List Byte)
  | 0, _ => []
  | fuel + 1, p => if p.length < k then [] else p.take k :: chunks k fuel (p.drop k)

/-- The id and value pairs of SET_LIMITS (R185). -/
def readPairs (p : List Byte) : List (Nat × Nat) :=
  (chunks 5 20 p).map (fun c => (fieldNat c 0 1, fieldNat c 1 4))

/-- The allowance values of SET_ALLOWANCE after the first zone (R68). -/
def readValues (p : List Byte) : List Nat := (chunks 4 32 (p.drop 1)).map beNat

/-! ## Reply content -/

/-- The presence bit and bytes of an optional field: absent bytes are 0 (R189). -/
def optBytes (n : Nat) (o : Option (List Byte)) : List Byte := o.getD (List.replicate n 0#8)

/-- A target as 7 bytes (Table 10-7). -/
def Target.bytes (t : Target) : List Byte := byte1 t.kind.code ++ intBytes 3 t.az ++ intBytes 3 t.el

/-- A reservation as 5 bytes (Table 10-7). -/
def Reservation.bytes (r : Reservation) : List Byte := byte1 r.zone ++ byte1 r.slot ++ natBytes 3 r.amount

/-- A reported position as 8 bytes (Table 10-7). -/
def Reported.bytes (r : Reported) : List Byte := intBytes 3 r.az ++ intBytes 3 r.el ++ boolByte r.settled ++ byte1 r.fault

/-- The heliostat flags byte (Table 10-4). -/
def Helio.flagsByte (h : Helio) : Nat := bitsOf [h.latched, h.lost, h.isLocal, h.faulted]

/-- The presence byte (Table 10-7). -/
def Helio.presence (h : Helio) : Nat :=
  bitsOf [h.commanded.isSome, h.pendingT.isSome, h.lastRecv.isSome, h.reported.isSome, h.primary.isSome,
    h.transfer.isSome, h.lastExc.isSome]

/-- The full entry of an occupied record, or the short entry of a VACANT one (R46, Table 10-7). -/
def helioEntry (i : Nat) (h : Helio) : List Byte :=
  if h.occupied then
    natBytes 2 i ++ byte1 h.st.code ++ byte1 h.flagsByte ++ byte1 h.presence
      ++ byte1 h.line ++ byte1 h.addr ++ byte1 h.cls ++ byte1 h.duty.code ++ byte1 h.standby
      ++ intBytes 4 h.pivot.x ++ intBytes 4 h.pivot.y ++ intBytes 4 h.pivot.z
      ++ intBytes 2 h.azCal ++ intBytes 2 h.elCal ++ intBytes 2 h.aimOff ++ natBytes 2 h.weight
      ++ byte1 h.misses ++ byte1 h.lag
      ++ optBytes 7 (h.commanded.map Target.bytes) ++ optBytes 7 (h.pendingT.map Target.bytes)
      ++ optBytes 6 (h.lastRecv.map (fun p => intBytes 3 p.1 ++ intBytes 3 p.2))
      ++ optBytes 8 (h.reported.map Reported.bytes)
      ++ optBytes 5 (h.primary.map Reservation.bytes) ++ optBytes 5 (h.transfer.map Reservation.bytes)
      ++ optBytes 1 (h.lastExc.map (fun k => byte1 k.code))
  else natBytes 2 i ++ byte1 0

/-- An aim entry as 23 bytes (Table 10-7). -/
def aimBytes (k : Nat) (e : AimEntry) : List Byte :=
  byte1 k ++ byte1 e.st.code ++ byte1 e.strategy ++ boolByte e.shared ++ natBytes 2 e.base ++ byte1 (spanCode e.size)
    ++ intBytes 4 e.aim.x ++ intBytes 4 e.aim.y ++ intBytes 4 e.aim.z ++ byte1 e.zone ++ byte1 e.duties.toNat
    ++ natBytes 2 e.users

/-- A sun record as 20 bytes (Table 10-8). -/
def SunRecord.bytes (r : SunRecord) : List Byte :=
  natBytes 4 r.tRef ++ intBytes 4 r.azRef ++ intBytes 4 r.elRef ++ intBytes 4 r.azRate ++ intBytes 4 r.elRate

/-- A zone entry as 20 bytes (R70, Table 10-8). -/
def zoneBytes (n : Nat) (z : Zone) : List Byte :=
  byte1 n ++ boolByte z.pending.isSome ++ natBytes 3 z.active ++ natBytes 3 (z.pending.getD 0)
    ++ natBytes 4 z.committed ++ natBytes 4 z.leaving ++ natBytes 4 (z.committed - z.leaving)

/-- The 46 field bytes of a class, in LOAD_CLASS's order (Table 10-3). -/
def DriveClass.bytes (c : DriveClass) : List Byte :=
  natBytes 4 c.azGain ++ natBytes 4 c.elGain ++ natBytes 4 c.azRef ++ intBytes 4 c.elRef
    ++ intBytes 3 c.azMin ++ intBytes 3 c.azMax ++ intBytes 3 c.elMin ++ intBytes 3 c.elMax
    ++ byte1 c.round.code ++ natBytes 2 c.deadband ++ natBytes 2 c.tolerance ++ natBytes 2 c.clearDist
    ++ intBytes 3 c.defocus ++ intBytes 3 c.stowAz ++ intBytes 3 c.stowEl ++ byte1 c.approachLimit ++ byte1 c.lagLimit

/-- The permit byte (Table 10-4). -/
def State.permitByte (s : State) : Nat :=
  bitsOf [s.sup.grant, s.weather.permitIn.level, s.sup.mode == .tracking, s.permit]

/-- Field mode and permit byte, the tail of the mode replies (R184). -/
def State.modeBytes (s : State) : List Byte := byte1 s.sup.mode.code ++ byte1 s.permitByte

/-- The MISS information as READ_MISS and NOTE_MISS carry it (R178). -/
def Notices.missBytes (n : Notices) : List Byte :=
  boolByte n.miss.isSome ++ natBytes 2 ((n.miss.map (·.helio)).getD 0) ++ byte1 ((n.miss.map (·.strategy)).getD 0)
    ++ byte1 ((n.miss.map (·.duty.code)).getD 0) ++ natBytes 2 n.missCount

/-- The QUIET information (R178). -/
def Notices.quietBytes (n : Notices) : List Byte :=
  boolByte n.quiet.isSome ++ natBytes 2 (n.quiet.getD 0) ++ natBytes 2 n.quietCount

/-- Filled indication and kind code of the fault record; the code is 0 in an empty one (R179, R189). -/
def Exc.filledBytes (e : Exc) : List Byte :=
  boolByte e.fault.isSome ++ byte1 ((e.fault.map (·.kind.code)).getD 0)

/-- The READ_FAULT content (R174, Table 10-3); presence bits in the order heliostat, zone, slot (log 17). -/
def Exc.readBytes (e : Exc) : List Byte :=
  let h := e.fault.bind (·.helio)
  let z := e.fault.bind (·.zone)
  let k := e.fault.bind (·.slot)
  e.filledBytes ++ natBytes 4 ((e.fault.map (·.time)).getD 0) ++ byte1 (bitsOf [h.isSome, z.isSome, k.isSome])
    ++ natBytes 2 (h.getD 0) ++ byte1 (z.getD 0) ++ byte1 (k.getD 0)
    ++ natBytes 2 e.flags.toNat ++ natBytes 2 e.masks.toNat ++ natBytes 2 e.count ++ boolByte e.alert

/-- The READ_WEATHER content (R149, Table 10-3); state byte bits in the order sensor fault, STOW, PERMIT (log 17). -/
def Weather.bytes (w : Weather) : List Byte :=
  natBytes 3 w.speed ++ natBytes 3 w.gust ++ natBytes 3 w.sustained ++ byte1 w.ring.length ++ byte1 w.wind.code
    ++ natBytes 2 w.settle ++ boolByte w.reading.isSome ++ natBytes 2 (w.reading.getD 0) ++ natBytes 2 w.dni
    ++ byte1 (bitsOf [w.sensorFault, w.stowIn.level, w.permitIn.level])

/-- How many records are in a state (R26). -/
def State.countIn (s : State) (st : HState) : Nat := s.helios.toList.countP (fun h => h.st == st)

/-- The READ_STATUS content after the result code (R188, Table 10-9). -/
def State.statusBytes (s : State) : List Byte :=
  s.modeBytes ++ byte1 s.weather.wind.code ++ byte1 (sunStateCode s.sup.lastSun)
    ++ byte1 (bitsOf [s.sup.sunPresent, s.sup.timeSet, s.sweep.progress.isSome, s.exc.alert])
    ++ byte1 s.sweep.active ++ byte1 (s.sweep.pendingStrategy.getD 0xFF) ++ natBytes 4 s.sweep.number
    ++ natBytes 2 s.exc.flags.toNat ++ natBytes 2 s.exc.masks.toNat
    ++ ([HState.vacant, .idle, .clear, .approach, .onTarget, .retarget, .leaving].flatMap (fun st => natBytes 2 (s.countIn st)))
    ++ natBytes 4 s.sup.plantTime ++ s.sup.sun.bytes ++ s.notices.quietBytes
    ++ byte1 s.drained.length ++ s.drained.flatMap byte1

/-- Whole entries packed in order, each segment taking as many as fit within room bytes (Table 10-6, note 1); held is the
segment being filled. -/
def packEntries (room : Nat) : (held : List (List Byte)) → (entries : List (List Byte)) → List (List (List Byte))
  | held, [] => if held.isEmpty then [] else [held]
  | held, e :: rest =>
    if ((held ++ [e]).map List.length).sum ≤ room then packEntries room (held ++ [e]) rest
    else held :: packEntries room [e] rest

/-- The segment byte: bits 0 to 3 the number, bit 7 set in the last (Table 10-6). -/
def segmentByte (number : Nat) (last : Bool) : List Byte := byte1 (number + if last then 128 else 0)

/-- Segments numbered from n, each opening with OK, the segment byte, the number of entries and a further header. A read that
returns nothing is one segment, marked last (R183, Table 10-6, note 2). -/
def buildSegments (extra : List Byte) : (n : Nat) → List (List (List Byte)) → List (List Byte)
  | n, [] => if n = 0 then [ResultCode.ok.byte :: (segmentByte 0 true ++ byte1 0 ++ extra)] else []
  | n, [seg] => [ResultCode.ok.byte :: (segmentByte n true ++ byte1 seg.length ++ extra ++ seg.flatten)]
  | n, seg :: seg' :: rest =>
    (ResultCode.ok.byte :: (segmentByte n false ++ byte1 seg.length ++ extra ++ seg.flatten))
      :: buildSegments extra (n + 1) (seg' :: rest)

end Sys2Proof.Machine
end

