-- ==== Sys2Proof/Machine/Lines.lean ====
section
/-! DEFINITION. The field lines: poll rings and the choice of the next poll (R112 to R117), the ending of a poll (R119 to
R121), the steps of a valid reply (R122 to R130), and the exception corrective action (R129). -/

namespace Sys2Proof.Machine

/-- The members of line n's poll ring: address and index of every occupied record of the line (R113). -/
def State.ring (s : State) (n : Nat) : List (Nat × Nat) :=
  s.helios.toList.zipIdx.filterMap (fun p => if p.1.occupied && p.1.line == n then some (p.1.addr, p.2) else none)

/-- The member of lowest address. -/
def lowest : List (Nat × Nat) → Option (Nat × Nat)
  | [] => none
  | m :: rest =>
    match lowest rest with
    | none => some m
    | some m' => if m.1 ≤ m'.1 then some m else some m'

/-- Is a pending target awaiting urgent service, given the last carried target of its address (R114)? -/
def awaitingUrgent (carried : Option Target) (h : Helio) : Bool :=
  match h.pendingT with
  | none => false
  | some t => t.kind.urgent && !h.lost && !h.isLocal && decide (carried ≠ some t)

/-- The round-robin choice (R115): the lowest address above the position, else the lowest. -/
def roundRobin (rr : Option Nat) (members : List (Nat × Nat)) : Option (Nat × Nat) :=
  match rr with
  | none => lowest members
  | some p =>
    match lowest (members.filter (fun m => decide (p < m.1))) with
    | some m => some m
    | none => lowest members

/-- The lowest member with a target awaiting urgent service (R115). -/
def urgentChoice (s : State) (n : Nat) : Option (Nat × Nat) :=
  lowest ((s.ring n).filter (fun m => awaitingUrgent ((s.line n).carried[m.1]?.getD none) (s.helio m.2)))

/-- The target a poll to the record carries; none is a QUERY (R116). -/
def pollTarget (mode : Mode) (h : Helio) : Option Target :=
  match h.pendingT with
  | none => none
  | some t =>
    if h.isLocal then none
    else match mode with
      | .tracking | .stowing | .stowed => some t
      | .halted => if t.kind.urgent then some t else none
      | .quiet => none

/-- A line starts a poll to address a, heliostat i (R112, R114): the frame is being sent, and a MOVE's target becomes the last
carried target of the address. -/
def startPoll (n a i : Nat) (rr : Option Nat) (s : State) : State :=
  let l := s.line n
  let move := pollTarget s.sup.mode (s.helio i)
  s.setLine n { l with
    poll := some { helio := i, addr := a, move := move, void := false, watch := s.limits.watchInterval
                   timeout := s.limits.replyTimeout, phase := .sending }
    rr := rr
    carried := match move with
      | some t => l.carried.setIfInBounds a (some t)
      | none => l.carried }

/-- May the line start a poll: none in flight and no silence timer (R112)? -/
def Line.free (l : Line) : Bool := l.poll.isNone && l.silence.isNone

/-- The choice of the next poll outside QUIET (R115); in QUIET the quiet timer rules (R117). -/
def choosePoll (n : Nat) (s : State) : State :=
  if (s.line n).free = false ∨ s.sup.mode = .quiet then s
  else match urgentChoice s n with
    | some (a, i) => startPoll n a i (s.line n).rr s
    | none =>
      match roundRobin (s.line n).rr (s.ring n) with
      | some (a, i) => startPoll n a i (some a) s
      | none => s

/-- The quiet poll: the next address by round robin, a QUERY (R117). -/
def quietPoll (n : Nat) (s : State) : State :=
  if (s.line n).free = false then s
  else match roundRobin (s.line n).rr (s.ring n) with
    | some (a, i) => startPoll n a i (some a) s
    | none => s

/-- The poll in flight has ended, and the line chooses (R115). -/
def endPoll (n : Nat) (s : State) : State := choosePoll n (s.setLine n { s.line n with poll := none })

/-- The phase of the poll in flight. -/
def setPhase (n : Nat) (ph : PollPhase) (s : State) : State :=
  let l := s.line n
  s.setLine n { l with poll := l.poll.map (fun p => { p with phase := ph }) }

/-- Every poll in flight to heliostat i becomes void (R38, R41, R120). -/
def voidPolls (i : Nat) (s : State) : State :=
  { s with lines := s.lines.map (fun l =>
      { l with poll := l.poll.map (fun p => if p.helio = i then { p with void := true } else p) }) }

/-- The last carried target of an address becomes absent, as a record joins or leaves the ring there (R113). -/
def forgetCarried (n a : Nat) (s : State) : State :=
  s.setLine n { s.line n with carried := (s.line n).carried.setIfInBounds a none }

/-- Which drive conditions arose at one access (R129). -/
structure Conditions where
  lost    : Bool := false
  lag     : Bool := false
  fault   : Bool := false
  isLocal : Bool := false
deriving DecidableEq, Repr

/-- Some condition arose. -/
def Conditions.any (c : Conditions) : Bool := c.lost || c.lag || c.fault || c.isLocal

/-- An occurrence reported when it arose. -/
def raiseWhen (b : Bool) (k : ExcKind) (i : Nat) (zone slot : Option Nat) (s : State) : State :=
  if b then raiseHelio k i zone slot s else s

/-- The corrective action (R129): DRIVE_LOST, LAG and DRIVE_FAULT are reported in that order with the zone and slot of the
primary reservation, a holder goes LEAVING, and a record that holds a reservation is offered DEFOCUS. -/
def corrective (i : Nat) (c : Conditions) (s : State) : State :=
  if c.any = false then s
  else
    let z := (s.helio i).primary.map (·.zone)
    let k := (s.helio i).primary.map (·.slot)
    let s1 := raiseWhen c.fault .driveFault i z k (raiseWhen c.lag .lag i z k (raiseWhen c.lost .driveLost i z k s))
    let s2 := enterLeaving i s1
    if (s2.helio i).reserved then offer i (defocusTarget (s2.classOf i) (s2.helio i)) s2 else s2

/-- In QUIET, an access that changed the fault code, LOCAL or LOST raises the QUIET source once (R130). -/
def quietNotice (changed : Bool) (i : Nat) (s : State) : State :=
  if changed && s.sup.mode == .quiet then { s with notices := s.notices.raiseQuiet i } else s

/-- A miss of a valid poll (R121, R129, R130). -/
def missAccess (i : Nat) (s : State) : State :=
  let h := s.helio i
  let m := min 15 (h.misses + 1)
  if !h.lost && decide (s.limits.lostLimit ≤ m) then
    let s1 := corrective i { lost := true } (s.setHelio i { h with misses := m, lost := true })
    stowTest (quietNotice true i s1)
  else s.setHelio i { h with misses := m }

/-- The poll in flight ends as a miss (R119 to R121); a void poll counts for no record. -/
def missPoll (n : Nat) (p : Poll) (s : State) : State :=
  endPoll n (if p.void then s else missAccess p.helio s)

/-- The fields of a reply after its sync byte (Table 10-10). -/
structure ReplyFields where
  addr     : Nat
  settled  : Bool
  isLocal  : Bool
  accepted : Bool
  fault    : Nat
  az       : Int
  el       : Int
deriving DecidableEq, Repr

/-- The eleven bytes read as fields; a fault code above 4 is taken as 4, undefined flag bits are ignored (R122). -/
def readReply (bs : List Byte) : ReplyFields :=
  let flags := (bs.drop 1).headD 0#8
  { addr := fieldNat bs 0 1
    settled := flags.getLsbD 0, isLocal := flags.getLsbD 1, accepted := flags.getLsbD 2
    fault := min 4 (fieldNat bs 2 1), az := fieldInt bs 3 3, el := fieldInt bs 6 3 }

/-- Steps 1 and 2: miss count, LOST, reported position (R122). -/
def Helio.heard (r : ReplyFields) (h : Helio) : Helio :=
  { h with misses := 0, lost := false, reported := some ⟨r.az, r.el, r.settled, r.fault⟩ }

/-- The arrival test (R124). -/
def Helio.arrived (c : DriveClass) (r : Reported) (h : Helio) : Bool :=
  match h.commanded with
  | some t => decide (t.kind = .receiver) && h.pendingT.isNone && settledAt c r t
  | none => false

/-- The away test (R125). -/
def Helio.away (c : DriveClass) (r : Reported) (h : Helio) : Bool :=
  match h.commanded with
  | some t =>
    decide (t.kind ≠ .receiver) &&
      ((match h.lastRecv with
        | some p => decide ((c.clearDist : Int) ≤ |r.az - p.1|) || decide ((c.clearDist : Int) ≤ |r.el - p.2|)
        | none => false)
       || settledAt c r t)
  | none => false

/-- Step 4, arrival (R124, R85). -/
def arrivalStep (i : Nat) (r : Reported) (s : State) : State :=
  let h := s.helio i
  if h.arrived (s.classOf i) r then
    match h.st with
    | .approach => s.setHelio i (h.toState .onTarget)
    | .retarget => promote i s
    | .vacant | .idle | .clear | .onTarget | .leaving => s
  else s

/-- Step 5, away (R125, R84). -/
def awayStep (i : Nat) (r : Reported) (s : State) : State :=
  let h := s.helio i
  if h.st = .leaving ∧ h.away (s.classOf i) r then releaseAll i s else s

/-- The lag count after step 6 and whether LAG is raised (R126, R127). -/
def Helio.lagAfter (c : DriveClass) (r : Reported) (h : Helio) : Nat × Bool :=
  let up := min 255 (h.lag + 1)
  match h.st with
  | .approach | .retarget => (up, decide (c.approachLimit ≤ up))
  | .onTarget =>
    if (match h.commanded with
        | some t => settledAt c r t
        | none => false) then (0, false)
    else (up, decide (c.lagLimit ≤ up))
  | .vacant | .idle | .clear | .leaving => (h.lag, false)

/-- Steps 7 and 8 on the record: FAULTED and LOCAL follow the reply (R128). -/
def Helio.faultLocal (r : ReplyFields) (h : Helio) : Helio :=
  { h with faulted := decide (r.fault ≠ 0), isLocal := r.isLocal }

/-- Steps 1 to 3 on the record: what is heard, and the target of an accepted MOVE delivered (R122, R123). -/
def Helio.taken (c : DriveClass) (move : Option Target) (r : ReplyFields) (h : Helio) : Helio :=
  match move with
  | some t => if r.accepted then (h.heard r).deliver c t else h.heard r
  | none => h.heard r

/-- Did the access change the fault code, LOCAL or LOST (R130)? An absent fault code counts as 0 (log 19). -/
def Helio.changedBy (r : ReplyFields) (h : Helio) : Bool :=
  decide ((h.reported.map (·.fault)).getD 0 ≠ r.fault) || (h.isLocal != r.isLocal) || h.lost

/-- The access of a valid reply to a poll that is not void (Figure 6-3, R122 to R130). -/
def replyAccess (i : Nat) (move : Option Target) (r : ReplyFields) (s : State) : State :=
  let h0 := s.helio i
  let c := s.classOf i
  let rep : Reported := ⟨r.az, r.el, r.settled, r.fault⟩
  let s3 := awayStep i rep (arrivalStep i rep (s.setHelio i (h0.taken c move r)))
  let h3 := s3.helio i
  let lag := h3.lagAfter c rep
  let s4 := s3.setHelio i ({ h3 with lag := lag.1 }.faultLocal r)
  let cond : Conditions :=
    { lag := lag.2, fault := decide (r.fault ≠ 0) && !h0.faulted, isLocal := r.isLocal && !h0.isLocal }
  stowTest (quietNotice (h0.changedBy r) i (corrective i cond s4))

/-- A complete reply ends the poll: a miss when the check or the address does not match, else a valid reply (R119). -/
def completePoll (n : Nat) (p : Poll) (bs : List Byte) (s : State) : State :=
  let r := readReply bs
  if crcMatches bs && r.addr == p.addr then
    endPoll n (if p.void then s else replyAccess p.helio p.move r s)
  else missPoll n p s

/-- The bytes on FLn_TX of the poll frame that a poll in flight sends (R118). -/
def Poll.frame (p : Poll) : List Byte := pollFrame p.addr p.move p.watch

/-- FLn_DE: asserted while the poll frame is being sent (Figure 6-2). -/
def Line.driverEnable (l : Line) : Bool :=
  match l.poll with
  | some p => p.phase == .sending
  | none => false

end Sys2Proof.Machine
end

