-- ==== Sys2Proof/Machine/WeatherOps.lean ====
section
/-! DEFINITION. The weather monitor's operations: capture (R136 to R138), wind windows and state (R139 to R141), irradiance
(R144 to R146) and the line filters with what the supervisor does with their changes (R147, R148, R154, R160). -/

namespace Sys2Proof.Machine

/-- The speed of an accepted period in µs (R138). -/
def edgeSpeed (pulseDistance p : Nat) : Nat := min 80000 (pulseDistance * 1000 / p)

/-- A rising edge on ANEMO (R136). -/
def takeEdge (pulseDistance : Nat) (w : Weather) : Weather :=
  match w.chain with
  | .idle => { w with chain := .timing 0 0 }
  | .timing count ovf =>
    let p := ovf * 65536 + count
    if p < 1000 then w else { w with chain := .timing 0 0, speed := edgeSpeed pulseDistance p }

/-- A wrap of the capture count; the 64th makes the chain IDLE and the speed 0 (R137). -/
def takeWrap (w : Weather) : Weather :=
  match w.chain with
  | .idle => w
  | .timing _ ovf => if 64 ≤ ovf + 1 then { w with chain := .idle, speed := 0 } else { w with chain := .timing 0 (ovf + 1) }

/-- The floor of the mean of a list, 0 when it is empty (R139). -/
def meanFloor (xs : List Nat) : Nat := xs.sum / xs.length

/-- The current speed appended, the oldest of 240 removed first, and both means formed anew (R139). -/
def appendSample (w : Weather) : Weather :=
  let kept := if 240 ≤ w.ring.length then w.ring.drop (w.ring.length - 239) else w.ring
  let ring := kept ++ [w.speed]
  { w with ring := ring, gust := meanFloor (ring.drop (ring.length - 12)), sustained := meanFloor ring }

/-- Exceeding (R140). -/
def Weather.exceeding (l : Config.Limits) (w : Weather) : Bool :=
  decide (l.gustStow ≤ w.gust) || decide (l.sustainedStow ≤ w.sustained)

/-- Quiet (R140). -/
def Weather.quiet (l : Config.Limits) (w : Weather) : Bool :=
  decide (w.gust < l.gustResume) && decide (w.sustained < l.sustainedResume)

/-- The wind state and settle count after a sample (R140, R141). -/
def windNext (l : Config.Limits) (w : Weather) : Wind × Nat :=
  match w.wind with
  | .calm => if w.exceeding l then (.windy, 0) else if w.quiet l then (.calm, w.settle) else (.settling, 0)
  | .windy => if w.exceeding l || !w.quiet l then (.windy, 0) else (.settling, 0)
  | .settling =>
    if w.exceeding l then (.windy, 0)
    else if w.quiet l then (if l.resumeHold * 4 ≤ w.settle + 1 then .calm else .settling, w.settle + 1)
    else (.settling, 0)

/-- One sample: ring, means, wind state; a change raises the WIND source, an entry into WINDY raises WIND_STOW and hands a wind
stow to the supervisor (R139 to R142, R154). -/
def takeSample (s : State) : State :=
  let w := appendSample { s.weather with sampleLeft := Config.sampleUs }
  let next := windNext s.limits w
  let s1 := { s with weather := { w with wind := next.1, settle := next.2 } }
  if next.1 = w.wind then s1
  else
    let s2 := notice .wind s1
    if next.1 = .windy then enterStowing (raiseField .windStow s2) else s2

/-- The reading of a code (R144). -/
def readingOf (span code : Nat) : Nat := min 1400 (code * span / 65535)

/-- dni_used after a reading (R145). -/
def dniAfter (decay dni r : Nat) : Nat := if dni ≤ r then r else max r (dni - decay)

/-- A cycle that yields a reading (R144, R145). -/
def takeReading (code : Nat) (s : State) : State :=
  let r := readingOf s.limits.span code
  { s with weather := { s.weather with
      conv := .waiting, reading := some r, sensorFault := false, dni := dniAfter s.limits.decayStep s.weather.dni r } }

/-- A faulty cycle (R146). -/
def sensorFaultCycle (s : State) : State :=
  let s1 := { s with weather := { s.weather with
      conv := .waiting, sensorFault := true, dni := max s.weather.dni s.limits.fallback } }
  if s.weather.sensorFault then s1 else raiseField .dniSensor s1

/-- A pin takes a level (R147): a level other than the filtered one starts the 10 ms afresh, the filtered one discards them. -/
def Filter.pinTo (level : Bool) (f : Filter) : Filter :=
  if f.pin = level then f
  else { f with pin := level, hold := if level = f.level then none else some Config.holdUs }

/-- The filter at the release of the RESET line: a pin that differs from the filtered level starts its 10 ms (R147). -/
def Filter.released (f : Filter) : Filter :=
  { f with hold := if f.pin = f.level then none else some Config.holdUs }

/-- The hold has run its 10 ms: the filtered level becomes the pin's (R147). -/
def Filter.change (f : Filter) : Filter := { f with level := f.pin, hold := none }

/-- The filter of a pin. -/
def State.filter (s : State) : InputPin → Filter
  | .stow => s.weather.stowIn
  | .permit => s.weather.permitIn

/-- The filter of a pin replaced. -/
def State.setFilter (s : State) (pin : InputPin) (f : Filter) : State :=
  match pin with
  | .stow => { s with weather := { s.weather with stowIn := f } }
  | .permit => { s with weather := { s.weather with permitIn := f } }

/-- The supervisor takes a filtered change of STOW: asserted, it raises LINE_STOW and moves the field (R148, R154). -/
def stowLineChanged (s : State) : State :=
  if s.weather.stowIn.level then enterStowing (raiseField .lineStow s) else s

/-- A filtered change, handed to the supervisor in the same access (R147, R148, R159, R160). -/
def filterChange (pin : InputPin) (s : State) : State :=
  let s1 := s.setFilter pin (s.filter pin).change
  match pin with
  | .stow => stowLineChanged s1
  | .permit => composePermit s.permit true s1

/-- DNI_CS: asserted outside WAITING (Figure 7-4). -/
def Weather.chipSelect (w : Weather) : Bool := w.conv != .waiting

end Sys2Proof.Machine
end

