-- ==== Sys2Proof/Machine/Reset.lean ====
section
/-! DEFINITION. The two resets: the values each block takes (R1, R24, R29, R32, R47, R62, R63, R65, R89, R112, R135, R151,
R163, R167, R176, R187), at one moment. -/

namespace Sys2Proof.Machine

/-- A field line after either reset (R112). -/
def lineAfterReset : Line := {}

/-- A record after a warm reset: dynamic fields cleared, static fields kept; a VACANT record stays VACANT (R24). -/
def Helio.warm (h : Helio) : Helio := if h.occupied then h.cleared else h

/-- An entry after a warm reset: DRAINING becomes FREE, every user count 0, all else kept (R47). -/
def AimEntry.warm (e : AimEntry) : AimEntry :=
  { e with users := 0, st := if e.st = .draining then .free else e.st }

/-- A zone after a warm reset: the active allowance is kept (R65). -/
def Zone.warm (z : Zone) : Zone := { active := z.active }

/-- The warm reset (R186 and the warm columns of the chapters). Kept: static fields, classes, standby points, allowances,
active strategy, weather, plant time with its indicator, sun record and state, limits, masks, notice enables. -/
def warmReset (s : State) : State :=
  { s.mapHelios Helio.warm with
    entries := s.entries.map AimEntry.warm
    drained := []
    zones := s.zones.map Zone.warm
    sweep := { active := s.sweep.active }
    lines := Vector.replicate Config.nLine lineAfterReset
    sup := { s.sup with
      mode := .halted, grant := false, silence := s.limits.silenceTimeout * 1000000, stowPass := none, defocusPass := none }
    exc := { masks := s.exc.masks }
    notices := { enable := s.notices.enable }
    link := {} }

/-- The cold reset, the RESET line asserted: every block at its cold-reset value. The pin levels are the outside's and stay;
so does the queue of commands that wait. -/
def coldReset (s : State) : State :=
  { State.reset with
    weather := { State.reset.weather with
      stowIn := { pin := s.weather.stowIn.pin }
      permitIn := { pin := s.weather.permitIn.pin } }
    inReset := true
    pending := s.pending }

/-- The RESET line is released: the line filters see their pins (R143, R147); the timers, loaded by the cold reset, count from
here. -/
def leaveReset (s : State) : State :=
  { s with
    weather := { s.weather with stowIn := s.weather.stowIn.released, permitIn := s.weather.permitIn.released }
    inReset := false }

end Sys2Proof.Machine
end

