-- ==== Sys2Proof/Machine/Link.lean ====
section
/-! DEFINITION. The plant link port: receiver and receive queue (R180, R181), carrying out requests (R182, R184), ready replies
and the outgoing arbiter (R179, R183), and the end of a frame (R181, R183, R186). -/

namespace Sys2Proof.Machine

/-! ## Replies -/

/-- The reply kind: the request kind plus 0x80, or 0xFF for a kind of 0x80 or above (R182). -/
def replyKind (kind : Byte) : Byte := if kind.toNat < 0x80 then kind + 0x80#8 else 0xFF#8

/-- A refusal or a bare OK: the result code alone (R184). -/
def bare (c : ResultCode) : List (List Byte) := [[c.byte]]

/-- An OK reply with content. -/
def okWith (content : List Byte) : List (List Byte) := [ResultCode.ok.byte :: content]

/-- The reply of a mode request: the code, the field mode and the permit byte as they stand after the access (R184). -/
def modeReply (c : ResultCode) (s : State) : List (List Byte) := [c.byte :: s.modeBytes]

/-- The request to be carried out next: the first of the queue not carried out yet (R182); none after a RESTART (R186). -/
def State.nextRequest (s : State) : Option Req :=
  if s.link.restarting then none else s.link.queue.find? (fun r => !r.done)

/-- The first request not carried out is marked as carried out. -/
def markDone : List Req → List Req
  | [] => []
  | r :: rest => if r.done then r :: markDone rest else { r with done := true } :: rest

/-- A request has been carried out: its reply becomes ready (R183). -/
def replyTo (r : Req) (segments : List (List Byte)) (isRestart : Bool) (s : State) : State :=
  { s with link := { s.link with
      queue := markDone s.link.queue
      ready := s.link.ready ++ [{ kind := replyKind r.kind, tag := r.tag, segments := segments, restart := isRestart }]
      restarting := s.link.restarting || isRestart } }

/-- What the owning block does with a payload: the state after and the segments of the reply. -/
abbrev Handler := List Byte → State → State × List (List Byte)

/-- The next request is carried out, when it is of this kind (R182): a payload of the wrong length is answered BAD_LENGTH,
else the owning block carries it out. A next request of another kind, or none, is not this row's event (log 1, log 2). -/
def carryOut (kind : Byte) (lengthOk : Nat → Bool) (f : Handler) (s : State) : State :=
  match s.nextRequest with
  | none => s
  | some r =>
    if r.kind ≠ kind then s
    else if lengthOk r.payload.length then
      let p := f r.payload s
      replyTo r p.2 (kind == 0x19#8) p.1
    else replyTo r (bare .badLength) false s

/-! ## Requests that take several accesses (R22, R182) -/

/-- What one access leaves: the segments of the reply when it was the last, else the work still to be done. -/
inductive Served where
  | last (segments : List (List Byte))
  | more (w : Work)
deriving DecidableEq, Repr

/-- The first request not carried out takes this work. -/
def markWork (w : Option Work) : List Req → List Req
  | [] => []
  | r :: rest => if r.done then r :: markWork w rest else { r with work := w } :: rest

/-- The request being carried out has this work left. -/
def State.setWork (w : Option Work) (s : State) : State :=
  { s with link := { s.link with queue := markWork w s.link.queue } }

/-- One access of request r has been served: the last one makes the reply ready, any other leaves work (R182, R183). -/
def serveAccess (r : Req) (p : State × Served) : State :=
  match p.2 with
  | .last segments => replyTo r segments false (p.1.setWork none)
  | .more w => p.1.setWork (some w)

/-- One access of the next request, when it is of this kind (R182): the first, which makes the checks, or the next of the work
left (log 7). -/
def carryOutAccess (kind : Byte) (lengthOk : Nat → Bool) (first : List Byte → State → State × Served)
    (next : Work → State → State × Served) (s : State) : State :=
  match s.nextRequest with
  | none => s
  | some r =>
    if r.kind ≠ kind then s
    else if lengthOk r.payload.length then
      serveAccess r (match r.work with
        | none => first r.payload s
        | some w => next w s)
    else replyTo r (bare .badLength) false s

/-- The request kinds of Table 10-3. -/
def knownKind (k : Byte) : Bool :=
  (decide (0x01 ≤ k.toNat) && decide (k.toNat ≤ 0x19)) || (decide (0x20 ≤ k.toNat) && decide (k.toNat ≤ 0x2A))

/-! ## The outgoing arbiter (R179, R183) -/

/-- The first due source in the arbiter's order. -/
def firstDue (n : Notices) : Option NoticeSrc :=
  [NoticeSrc.alert, .mode, .wind, .miss, .drained, .quiet].find? (inSet n.due)

/-- The kind byte of a notice (Table 10-3). -/
def NoticeSrc.kindByte : NoticeSrc → Byte
  | .alert => 0x40#8 | .mode => 0x41#8 | .wind => 0x42#8 | .miss => 0x43#8 | .drained => 0x44#8 | .quiet => 0x45#8

/-- The payload of a notice, formed as its frame begins (R179, Table 10-5). -/
def State.noticePayload (s : State) : NoticeSrc → List Byte
  | .alert => natBytes 2 s.exc.flags.toNat ++ s.exc.filledBytes
  | .mode => s.modeBytes
  | .wind => byte1 s.weather.wind.code
  | .miss => s.notices.missBytes
  | .drained => byte1 s.drained.length
  | .quiet => s.notices.quietBytes

/-- The arbiter: when the transmitter is free, the first ready reply begins, else the first due notice (R179). -/
def arbiter (s : State) : State :=
  if s.link.tx.isSome then s
  else match s.link.ready with
    | r :: rest =>
      { s with link := { s.link with
          ready := rest
          tx := some { kind := r.kind, tag := r.tag, payload := r.segments.headD []
                       origin := .reply r.full r.restart r.segments.tail } } }
    | [] =>
      match firstDue s.notices with
      | none => s
      | some src =>
        { s with
          notices := { s.notices with due := s.notices.due &&& ~~~src.bit, seq := (s.notices.seq + 1) % 256 }
          link := { s.link with
            tx := some { kind := src.kindByte, tag := BitVec.ofNat 8 s.notices.seq, payload := s.noticePayload src
                         origin := .notice src } } }

/-- A command that can occur acts, and the arbiter then sees what became ready or due; one that cannot occur, or comes while
the RESET line is asserted, leaves the state as it is (logs 1, 23, 30). -/
def act (due : Bool) (f : State → State) (s : State) : Result :=
  .next (if due && !s.inReset then arbiter (f s) else s)

/-- A request row: the carrying out of the next request (R182). -/
def request (kind : Byte) (lengthOk : Nat → Bool) (f : Handler) (s : State) : Result :=
  act true (carryOut kind lengthOk f) s

/-- The end of the frame being sent (R181, R183, R186): the reply's next segment begins, or the reply is complete and its place
in the queue or the FULL list is given up; after RESTART's reply the warm reset is taken. -/
def frameEnd (s : State) : State :=
  match s.link.tx with
  | none => s
  | some t =>
    match t.origin with
    | .reply full isRestart (seg :: rest) =>
      { s with link := { s.link with tx := some { t with payload := seg, origin := .reply full isRestart rest } } }
    | .reply full isRestart [] =>
      if isRestart then warmReset s
      else if full then { s with link := { s.link with tx := none, fullList := s.link.fullList.tail } }
      else { s with link := { s.link with tx := none, queue := s.link.queue.tail } }
    | .notice _ => { s with link := { s.link with tx := none } }

/-! ## The receiver (R180, R181) -/

/-- The silence timer is loaded with the silence timeout as it stands (R163). -/
def restartSilence (s : State) : State :=
  { s with sup := { s.sup with silence := s.limits.silenceTimeout * 1000000 } }

/-- A frame with a correct check is offered to the receive queue (R181, R186). -/
def offerFrame (kind tag : Byte) (payload : List Byte) (s : State) : State :=
  if s.link.restarting then s
  else if s.link.queue.length < Config.queueDepth then
    { s with link := { s.link with queue := s.link.queue ++ [{ kind := kind, tag := tag, payload := payload }] } }
  else if s.link.fullList.length < Config.queueDepth then
    { s with link := { s.link with
        fullList := s.link.fullList ++ [(kind, tag)]
        ready := s.link.ready ++ [{ kind := replyKind kind, tag := tag, segments := bare .full, full := true }] } }
  else s

/-- A complete frame, given as its bytes after the sync byte: the receiver hunts again; a frame whose check matches restarts
the silence timer and is offered to the queue, any other is discarded (R180). -/
def takeFrame (frame : List Byte) (s : State) : State :=
  let s1 := { s with link := { s.link with rx := .hunting } }
  if crcMatches frame then
    let body := frame.take (frame.length - 2)
    offerFrame ((body.drop 1).headD 0#8) ((body.drop 2).headD 0#8) (body.drop 3) (restartSilence s1)
  else s1

/-- A byte on PL_RXD (R180): while hunting only 0xA5 is taken; then LEN, which must lie in 2..252; then LEN further bytes and two
check bytes, the last of which completes the frame. -/
def takeByte (b : Byte) (s : State) : State :=
  match s.link.rx with
  | .hunting => if b = 0xA5#8 then { s with link := { s.link with rx := .receiving [] 0 } } else s
  | .receiving bytes _ =>
    let bs := bytes ++ [b]
    let len := (bs.headD 0#8).toNat
    if len < 2 ∨ 252 < len then { s with link := { s.link with rx := .hunting } }
    else if bs.length = len + 3 then takeFrame bs s
    else { s with link := { s.link with rx := .receiving bs 0 } }

/-- Can this complete frame be the one being received: the receiver hunts (the whole frame comes with the command) or has
received a beginning of it (log 12)? -/
def Rx.fits (rx : Rx) (frame : List Byte) : Bool :=
  match rx with
  | .hunting => true
  | .receiving bytes _ => bytes.isPrefixOf frame

/-- The bytes on PL_TXD of the frame being sent (R180). -/
def TxFrame.bytes (t : TxFrame) : List Byte := plantFrame t.kind t.tag t.payload

end Sys2Proof.Machine
end

