-- ==== Sys2Proof/Machine/Accesses.lean ====
section
/-! DEFINITION. The accesses of the requests that take several records one by one, READ_HELIOSTATS, RELEASE_HELIOSTAT 0xFFFF and
HALT, between which the accesses of other blocks are served (R22, R43, R46, R153, R182). -/

namespace Sys2Proof.Machine

/-! ## READ_HELIOSTATS (R46) -/

/-- The last access of a read: the cursor moves past the records read, and the reply carries their entries, in segments of 246
bytes of entries (Table 10-6). -/
def endRead (first : Nat) (entries : List (List Byte)) (s : State) : State × Served :=
  let c := first + entries.length
  ({ s with link := { s.link with cursor := c } },
   .last (buildSegments (boolByte (c == 2048)) 0 (packEntries 246 [] entries)))

/-- One record is read as it stands, with left of them still to be read, this one among them. -/
def readRecord (first left : Nat) (entries : List (List Byte)) (s : State) : State × Served :=
  let i := first + entries.length
  let all := entries ++ [helioEntry i (s.helio i)]
  if left ≤ 1 then endRead first all s else (s, .more (.read first (left - 1) all))

/-! ## RELEASE_HELIOSTAT (R43) -/

/-- LATCHED of one record is cleared. -/
def unlatch (i : Nat) (s : State) : State := s.setHelio i { s.helio i with latched := false }

/-- Record i of the release of every record; the one at 2047 is the last. -/
def releaseRecord (i : Nat) (s : State) : State × Served :=
  (unlatch i s, if i + 1 < Config.nHelio then .more (.release (i + 1)) else .last (bare .ok))

/-! ## HALT (R153) -/

/-- A record at HALT: CLEAR becomes IDLE, a pending RECEIVER or STANDBY is dropped. -/
def Helio.halted (h : Helio) : Helio :=
  let h1 := if h.st = .clear then h.toState .idle else h
  { h1 with pendingT := h.pendingT.filter (fun t => t.kind.urgent) }

/-- What is left of a HALT from index i on: the occupied records there, or none, and the request has been carried out. -/
def haltFrom (i : Nat) (s : State) : State × Served :=
  (s, if (s.nextOccupied i).isSome then .more (.halt i) else .last (modeReply .ok s))

/-- The next occupied record of a HALT is taken. -/
def haltRecord (i : Nat) (s : State) : State × Served :=
  match s.nextOccupied i with
  | none => haltFrom i s
  | some k => haltFrom (k + 1) (s.setHelio k (s.helio k).halted)

/-! ## The next access of a request -/

/-- The next access of the work left. -/
def serveWork (w : Work) (s : State) : State × Served :=
  match w with
  | .read first left entries => readRecord first left entries s
  | .release i => releaseRecord i s
  | .halt i => haltRecord i s

/-- The row of a request that takes several accesses: its first access, or, when that has been served, its next (log 7). -/
def requestByAccess (kind : Byte) (lengthOk : Nat → Bool) (first : List Byte → State → State × Served) (s : State) : Result :=
  act true (carryOutAccess kind lengthOk first serveWork) s

/-- The work left of the request being carried out. -/
def State.workLeft (s : State) : Option Work := s.nextRequest.bind (·.work)

/-- The next access of the request being carried out, which no command brings (log 7). -/
def continueRequest (s : State) : State :=
  match s.nextRequest with
  | none => s
  | some r =>
    match r.work with
    | none => s
    | some w => serveAccess r (serveWork w s)

end Sys2Proof.Machine
end

