-- ==== Sys2Proof/Machine/Clock.lean ====
section
/-! DEFINITION. The passing of time: one microsecond, which the step takes when no command waits and no request is being carried
out access by access (logs 4 and 7). Every timer counts; an expiry is put into the queue as the command of the table that it is,
in the order written here. -/

namespace Sys2Proof.Machine

/-- A timer one unit on; at 0 it stays. -/
def countDown (t : Option Nat) : Option Nat := t.map (· - 1)

/-- Does an optional timer reach 0 with this unit? -/
def reaches0 (t : Option Nat) : Bool := t == some 1

/-- The sweep timer a plant millisecond on (R90). -/
def SweepTimer.down : SweepTimer → SweepTimer
  | .running ms => .running (ms - 1)
  | .stopped => .stopped
  | .expired => .expired

/-- A field line a microsecond on (R112, R117, R119). -/
def Line.tick (l : Line) : Line :=
  { l with
    silence := countDown l.silence
    quiet := countDown l.quiet
    poll := l.poll.map fun p =>
      match p.phase with
      | .awaiting left => { p with phase := .awaiting (left - 1) }
      | .sending | .receiving => p }

/-- The capture count advances; at 65,535 it waits for its wrap (R136, R137). -/
def Chain.tick : Chain → Chain
  | .idle => .idle
  | .timing count ovf => .timing (min 65535 (count + 1)) ovf

/-- The conversion cycle a microsecond on (R143). -/
def Conv.tick : Conv → Conv
  | .converting left => .converting (left - 1)
  | .waiting => .waiting
  | .reading => .reading

/-- A line filter a microsecond on (R147). -/
def Filter.tick (f : Filter) : Filter := { f with hold := countDown f.hold }

/-- The weather monitor a microsecond on (R136, R139, R143, R147). -/
def Weather.tick (w : Weather) : Weather :=
  { w with
    chain := w.chain.tick, sampleLeft := w.sampleLeft - 1, conv := w.conv.tick, convLeft := w.convLeft - 1
    stowIn := w.stowIn.tick, permitIn := w.permitIn.tick }

/-- The receiver a microsecond on: the time since the last byte (R180). -/
def Rx.tick : Rx → Rx
  | .hunting => .hunting
  | .receiving bytes gap => .receiving bytes (gap + 1)

/-- Plant time and the silence timer a microsecond on; the last millisecond of the day waits for its wrap (R163, R165). -/
def Sup.tick (u : Sup) : Sup :=
  let s := { u with silence := u.silence - 1 }
  if u.usInMs + 1 < 1000 then { s with usInMs := u.usInMs + 1 }
  else { s with usInMs := 0, plantTime := min (Config.dayMs - 1) (u.plantTime + 1) }

/-- Does this microsecond complete a plant millisecond? -/
def Sup.msEnds (u : Sup) : Bool := decide (1000 ≤ u.usInMs + 1)

/-- A command when a condition holds. -/
def enqueue (b : Bool) (c : Instr) : List Instr := if b then [c] else []

/-- The expiries of a line (R112, R117, R119). -/
def Line.expiries (n : Fin Config.nLine) (l : Line) : List Instr :=
  enqueue (reaches0 l.silence) (.lineSilenceExpiry n)
  ++ enqueue (l.poll.any (fun p => p.phase == .awaiting 1)) (.replyTimeout n)
  ++ enqueue (reaches0 l.quiet) (.quietTimerExpiry n)

/-- Does the capture count reach 65,536? -/
def Chain.wraps : Chain → Bool
  | .idle => false
  | .timing count _ => decide (65536 ≤ count + 1)

/-- Does the gap pass 1 ms with this unit (R180)? -/
def Rx.gapEnds : Rx → Bool
  | .hunting => false
  | .receiving _ gap => decide (gap + 1 = Config.plantGapUs + 1)

/-- The expiries that this microsecond brings, in the model's order (log 4). -/
def State.expiries (s : State) : List Instr :=
  enqueue (s.sup.msEnds && s.sup.plantTime + 1 == Config.dayMs) .plantTimeWrap
  ++ enqueue (s.sup.msEnds && s.sweep.timer == .running 1) .sweepTimerExpiry
  ++ enqueue (s.sup.silence == 1) .silenceExpiry
  ++ (List.finRange Config.nLine).flatMap (fun n => (s.lines[n]).expiries n)
  ++ enqueue s.weather.chain.wraps .captureWrap
  ++ enqueue (s.weather.sampleLeft == 1) .windSample
  ++ enqueue (s.weather.convLeft == 1) .conversionStart
  ++ enqueue (s.weather.conv == .converting 1) .dniReadyTimeout
  ++ enqueue (reaches0 s.weather.stowIn.hold) (.lineFilterExpiry .stow)
  ++ enqueue (reaches0 s.weather.permitIn.hold) (.lineFilterExpiry .permit)
  ++ enqueue s.link.rx.gapEnds .plantFrameGapTimeout

/-- One microsecond passes. While the RESET line is asserted no timer counts (R143). -/
def tick (s : State) : State :=
  if s.inReset then s
  else
    { s with
      sup := s.sup.tick
      sweep := if s.sup.msEnds then { s.sweep with timer := s.sweep.timer.down } else s.sweep
      lines := s.lines.map Line.tick
      weather := s.weather.tick
      link := { s.link with rx := s.link.rx.tick }
      pending := s.pending ++ s.expiries }

/-- The step with no command waiting: the request being carried out takes its next access, else one microsecond passes (logs 4
and 7). -/
def idleStep (s : State) : Result :=
  if s.workLeft.isSome && !s.inReset then act true continueRequest s else .next (tick s)

end Sys2Proof.Machine
end

