-- ==== Sys2Proof/Machine/Tracking.lean ====
section
/-! DEFINITION. The tracking engine: sweep start and end (R63, R69, R91 to R94) and the visit (R95 to R109). -/

namespace Sys2Proof.Machine

/-- Pending allowances become active (R69). -/
def Zone.apply (z : Zone) : Zone :=
  match z.pending with
  | some a => { z with active := a, pending := none }
  | none => z

/-- The exceptions of a sun evaluation, by comparison with the one before; before the first, the sun counts as fresh and not
low (R94). STALE_SUN is reported before SUN_LOW (log 16). -/
def sunChanges (old new : SunFlags) (s : State) : State :=
  let s1 := if new.stale && !old.stale then triggerDefocus (raiseField .staleSun s) else s
  if new.low && !old.low then raiseField .sunLow s1 else s1

/-- A sweep starts (R93, R94). -/
def sweepStart (s : State) : State :=
  let strategy := s.sweep.pendingStrategy.getD s.sweep.active
  let sun := evalSun s.limits s.sup.sun s.sup.plantTime
  sunChanges (s.sup.lastSun.getD ⟨false, false⟩) sun.flags
    { s with
      zones := s.zones.map Zone.apply
      sup := { s.sup with lastSun := some sun.flags }
      sweep := { s.sweep with
        active := strategy, pendingStrategy := none, snapStrategy := strategy
        snapSun := some sun, snapDni := s.weather.dni
        number := (s.sweep.number + 1) % 4294967296
        timer := .running s.limits.sweepPeriod, progress := some 0 } }

/-- The mode has entered TRACKING: a sweep starts at once, or start waiting is set during one (R91). -/
def enterTracking (s : State) : State :=
  match s.sweep.progress with
  | none => sweepStart s
  | some _ => { s with sweep := { s.sweep with startWaiting := true } }

/-- The position moves past index i; past 2047 the sweep ends, and a waiting start begins the next in TRACKING (R91, R96). -/
def passIndex (i : Nat) (s : State) : State :=
  if i + 1 < Config.nHelio then { s with sweep := { s.sweep with progress := some (i + 1) } }
  else
    let s1 := { s with sweep := { s.sweep with progress := none } }
    if s1.sweep.startWaiting ∧ s1.sup.mode = .tracking then
      sweepStart { s1 with sweep := { s1.sweep with startWaiting := false } }
    else s1

/-- The snapshot sun unless it is stale. -/
def State.freshSun (s : State) : Option SnapSun :=
  match s.sweep.snapSun with
  | some u => if u.flags.stale then none else some u
  | none => none

/-- Is a heliostat eligible (R95)? -/
def State.eligible (s : State) : Bool :=
  s.sup.mode == .tracking && s.permit &&
    (match s.sweep.snapSun with
     | some u => !u.flags.stale && !u.flags.low
     | none => false)

/-- The STANDBY computation of a record toward its standby point (R20). -/
def State.standbyFor (s : State) (sun : SnapSun) (i : Nat) : Except AimFail (Target × Nat) :=
  aimAt true sun (s.classOf i) (s.helio i) (s.standbyPoint (s.helio i).standby)

/-- The RECEIVER computation of a record toward an aim entry (R7, R19). -/
def State.receiverFor (s : State) (sun : SnapSun) (i k : Nat) : Except AimFail (Target × Nat) :=
  aimAt false sun (s.classOf i) (s.helio i) (receiverPoint (s.entry k) (s.helio i))

/-- The STANDBY offer of R99, R100 and R102: nothing under a stale sun; GEOMETRY keeps the targets and is raised. -/
def offerStandby (i : Nat) (s : State) : State :=
  match s.freshSun with
  | none => s
  | some sun =>
    match s.standbyFor sun i with
    | .ok p => offer i p.1 s
    | .error _ => raiseHelio .geometry i none none s

/-- The offer that takes a leaving holder's beam off the receiver, any cause but OUT_OF_SERVICE (R101). -/
def offerOff (i : Nat) (s : State) : State :=
  match s.freshSun with
  | none => offer i (defocusTarget (s.classOf i) (s.helio i)) s
  | some sun =>
    match s.standbyFor sun i with
    | .ok p => offer i p.1 s
    | .error _ =>
      let s1 := raiseHelio .geometry i none none s
      offer i (defocusTarget (s1.classOf i) (s1.helio i)) s1

/-- A visit sends a holder LEAVING and offers it the target of R101. -/
def sendOff (i : Nat) (s : State) : State := offerOff i (enterLeaving i s)

/-- AIM_MISS, with the MISS notice source (R109). -/
def raiseMiss (i : Nat) (s : State) : State :=
  let s1 := raiseHelio .aimMiss i none none s
  { s1 with notices := s1.notices.raiseMiss ⟨i, s1.sweep.snapStrategy, (s1.helio i).duty⟩ }

/-- A kind raised with the zone and slot of the entry concerned (R109). -/
def raiseAt (k : ExcKind) (i slot : Nat) (s : State) : State := raiseHelio k i (some (s.entry slot).zone) (some slot) s

/-- The kind of a failed computation. -/
def AimFail.kind : AimFail → ExcKind
  | .geometry => .geometry
  | .travel => .travel

/-- The contribution of record i under the snapshot's irradiance (R72). -/
def State.contributionOf (s : State) (i cosq : Nat) : Nat := contribution (s.helio i).weight cosq s.sweep.snapDni

/-- Order 3, OUT_OF_SERVICE (R98): a record already at its class's STOW with nothing pending is offered nothing. -/
def visitOutOfService (i : Nat) (s : State) : State :=
  let s1 := enterLeaving i s
  let stowT := stowTarget (s.classOf i)
  if (s.helio i).commanded = some stowT ∧ (s.helio i).pendingT = none then s1 else offer i stowT s1

/-- Order 5, not eligible (R100, R101). -/
def visitIneligible (i : Nat) (s : State) : State :=
  if (s.helio i).holder then sendOff i s else offerStandby i s

/-- Order 6, an eligible CLEAR heliostat (R102). -/
def visitClear (sun : SnapSun) (i : Nat) (s : State) : State :=
  match s.lookup i s.sweep.snapStrategy (s.helio i).duty with
  | .miss => offerStandby i (raiseMiss i s)
  | .denied k => offerStandby i (raiseAt .aimDenied i k s)
  | .found k =>
    match s.receiverFor sun i k with
    | .error f => offerStandby i (raiseAt f.kind i k s)
    | .ok (t, cosq) =>
      let z := (s.entry k).zone
      let c := s.contributionOf i cosq
      if admits (s.zone z) c then offer i t (admitPrimary i ⟨z, k, c⟩ s)
      else offerStandby i (raiseAt .flux i k s)

/-- A refresh of the primary reservation at the aim of the slot it names, of zone z, and the RECEIVER offer (R103, R106). -/
def stayAt (sun : SnapSun) (i k : Nat) (held : Reservation) (s : State) : State :=
  match s.receiverFor sun i k with
  | .error f => sendOff i (raiseAt f.kind i k s)
  | .ok (t, cosq) =>
    let c := s.contributionOf i cosq
    if refreshes (s.zone held.zone) held.amount c then offer i t (refreshPrimary i c s)
    else sendOff i (raiseHelio .flux i (some held.zone) (some k) s)

/-- A same-zone transfer to slot k (R104, R80). -/
def transferTo (sun : SnapSun) (i k : Nat) (held : Reservation) (s : State) : State :=
  match s.receiverFor sun i k with
  | .error f => sendOff i (raiseAt f.kind i k s)
  | .ok (t, cosq) =>
    let c := s.contributionOf i cosq
    let s1 := moveSlot i k s
    if refreshes (s1.zone held.zone) held.amount c then
      let s2 := refreshPrimary i c s1
      offer i t (s2.setHelio i ((s2.helio i).toState .approach))
    else sendOff i (raiseHelio .flux i (some held.zone) (some k) s1)

/-- A cross-zone admission through slot k, and what follows its failure (R105, R106). -/
def crossTo (sun : SnapSun) (i k : Nat) (held : Reservation) (s : State) : State :=
  match s.receiverFor sun i k with
  | .error f => sendOff i (raiseAt f.kind i k s)
  | .ok (t, cosq) =>
    let z := (s.entry k).zone
    let c := s.contributionOf i cosq
    if admits (s.zone z) c then offer i t (admitTransfer i ⟨z, k, c⟩ s)
    else
      let s1 := raiseAt .flux i k s
      if s.exc.masked .flux ∧ (s.entry held.slot).st = .enabled then stayAt sun i held.slot held s1
      else sendOff i s1

/-- Order 7, an eligible APPROACH or ON_TARGET holder (R103 to R106). -/
def visitHolder (sun : SnapSun) (i : Nat) (held : Reservation) (s : State) : State :=
  match s.lookup i s.sweep.snapStrategy (s.helio i).duty with
  | .miss => sendOff i (raiseMiss i s)
  | .denied k => sendOff i (raiseAt .aimDenied i k s)
  | .found k =>
    if k = held.slot then stayAt sun i k held s
    else if (s.entry k).zone = held.zone then transferTo sun i k held s
    else crossTo sun i k held s

/-- Order 8, an eligible RETARGET heliostat (R107). -/
def visitRetarget (sun : SnapSun) (i : Nat) (held : Reservation) (s : State) : State :=
  match s.lookup i s.sweep.snapStrategy (s.helio i).duty with
  | .miss => sendOff i (raiseMiss i s)
  | .denied k => sendOff i (raiseAt .aimDenied i k s)
  | .found k =>
    if k = held.slot then
      match s.receiverFor sun i k with
      | .error f => sendOff i (raiseAt f.kind i k s)
      | .ok (t, cosq) =>
        let c := s.contributionOf i cosq
        if refreshes (s.zone held.zone) held.amount c then offer i t (refreshTransfer i c s)
        else sendOff i (raiseHelio .flux i (some held.zone) (some k) s)
    else sendOff i s

/-- Orders 6 to 8, the eligible visit by state (Figure 5-2). A record without the reservation its state calls for does not
arise (R25); it is left as it is. -/
def visitEligible (sun : SnapSun) (i : Nat) (s : State) : State :=
  let h := s.helio i
  match h.st, h.primary, h.transfer with
  | .clear, _, _ => visitClear sun i s
  | .approach, some r, _ => visitHolder sun i r s
  | .onTarget, some r, _ => visitHolder sun i r s
  | .retarget, _, some r => visitRetarget sun i r s
  | _, _, _ => s

/-- Orders 3 to 8 (Figure 5-2), on a record that order 2 has left in another state than IDLE. -/
def visitDecide (i : Nat) (s : State) : State :=
  let h := s.helio i
  if h.duty = .outOfService then visitOutOfService i s
  else if h.st = .leaving ∨ h.latched ∨ h.faulted then offerStandby i s
  else if s.eligible = false then visitIneligible i s
  else match s.sweep.snapSun with
    | some sun => visitEligible sun i s
    | none => s

/-- The visit of record i (R96, R97, Figure 5-2). -/
def visitRecord (i : Nat) (s : State) : State :=
  let h := s.helio i
  if s.sup.mode ≠ .tracking ∨ h.lost ∨ h.isLocal then s
  else visitDecide i (if h.st = .idle then s.setHelio i (h.toState .clear) else s)

end Sys2Proof.Machine
end

