-- ==== Sys2Proof/Machine/EngineEvents.lean ====
section
/-! DEFINITION. The events of the tracking engine (R90 to R92, R96), of the stow and defocus passes (R155, R161, R162), and of
the supervisor's timers (R164, R165). -/

namespace Sys2Proof.Machine

/-! ## Sweeps -/

/-- Is the sweep timer running? -/
def SweepTimer.isRunning : SweepTimer → Bool
  | .running _ => true
  | .stopped | .expired => false

/-- The sweep timer expires in TRACKING: a sweep starts, or during one SWEEP_OVERRUN is raised and a start waits (R91, R92). -/
def sweepTimerExpired (s : State) : State :=
  match s.sweep.progress with
  | none => sweepStart s
  | some _ => raiseField .sweepOverrun { s with sweep := { s.sweep with timer := .expired, startWaiting := true } }

/-- SWEEP_TIMER_EXPIRY: a stopped or expired timer does not expire (R90). -/
def execSweepTimerExpiry (s : State) : Result :=
  act (s.sweep.timer.isRunning && s.sup.mode == .tracking) sweepTimerExpired s

/-- The record a VISIT takes: the first occupied one at or above the sweep's position (R96, log 10). The position is the next index to
be visited or passed; a record loaded there counts as ahead, so this sweep still visits it (DESIGN CHOICE, log 34). -/
def State.visitTarget (s : State) : Option Nat := s.sweep.progress.bind s.nextOccupied

/-- The visit of the next occupied record, and the position past it (R96). -/
def visitNext (s : State) : State :=
  match s.visitTarget with
  | none => s
  | some i => passIndex i (visitRecord i s)

/-- VISIT: the next occupied record is visited (R96). -/
def execVisit (s : State) : Result := act s.visitTarget.isSome visitNext s

/-- Does the sweep's position stand at a VACANT index? -/
def State.atVacant (s : State) : Bool :=
  match s.sweep.progress with
  | none => false
  | some i => !(s.helio i).occupied

/-- The sweep's position passes its index (R96). -/
def passPosition (s : State) : State :=
  match s.sweep.progress with
  | none => s
  | some i => passIndex i s

/-- VACANT_INDEX_PASSED: a VACANT index is passed without a visit (R96). -/
def execVacantIndexPassed (s : State) : Result := act s.atVacant passPosition s

/-! ## Passes -/

/-- The stow pass reaches record i: a holder goes LEAVING, an IDLE record CLEAR, and the STOW is offered (R155). -/
def stowReach (i : Nat) (s : State) : State :=
  let s1 := enterLeaving i s
  let h := s1.helio i
  let s2 := if h.st = .idle then s1.setHelio i (h.toState .clear) else s1
  offer i (stowTarget (s2.classOf i)) s2

/-- The stow pass is past its last record: it ends and the stow test is made (R155, R156). -/
def endStowPass (s : State) : State := stowTest { s with sup := { s.sup with stowPass := none } }

/-- The stow pass at index p takes the next occupied record; past the last one it ends (R155, log 11). -/
def stowPassFrom (p : Nat) (s : State) : State :=
  match s.nextOccupied p with
  | none => endStowPass s
  | some i =>
    let s1 := stowReach i s
    match s1.nextOccupied (i + 1) with
    | none => endStowPass s1
    | some _ => { s1 with sup := { s1.sup with stowPass := some (i + 1) } }

/-- STOW_PASS_STEP (R155). -/
def execStowPassStep (s : State) : Result :=
  act s.sup.stowPass.isSome (stowPassFrom (s.sup.stowPass.getD 0)) s

/-- The defocus pass reaches record i: a holder goes LEAVING and is offered a DEFOCUS formed from its current counts, any other
record is passed (R161). -/
def defocusReach (i : Nat) (s : State) : State :=
  if (s.helio i).holder then
    let s1 := enterLeaving i s
    offer i (defocusTarget (s1.classOf i) (s1.helio i)) s1
  else s

/-- The defocus pass moves to an index, or ends. -/
def setDefocusPass (p : Option Nat) (s : State) : State := { s with sup := { s.sup with defocusPass := p } }

/-- The defocus pass at index p takes the next occupied record; past the last one it ends (R161, log 11). -/
def defocusPassFrom (p : Nat) (s : State) : State :=
  match s.nextOccupied p with
  | none => setDefocusPass none s
  | some i =>
    let s1 := defocusReach i s
    setDefocusPass ((s1.nextOccupied (i + 1)).map fun _ => i + 1) s1

/-- DEFOCUS_PASS_STEP (R161, R162). -/
def execDefocusPassStep (s : State) : Result :=
  act s.sup.defocusPass.isSome (defocusPassFrom (s.sup.defocusPass.getD 0)) s

/-! ## The supervisor's timers -/

/-- The silence timer expires: LINK_SILENT, the grant cleared, the timer restarted, the permit composed anew (R164, R160). -/
def silenceExpired (s : State) : State :=
  let s1 := restartSilence (raiseField .linkSilent s)
  composePermit s.permit true { s1 with sup := { s1.sup with grant := false } }

/-- SILENCE_EXPIRY, in every field mode (R163, R164). -/
def execSilenceExpiry (s : State) : Result := act true silenceExpired s

/-- The last millisecond of the day. -/
def State.lastMs (s : State) : Bool := decide (s.sup.plantTime = Config.dayMs - 1)

/-- PLANT_TIME_WRAP: plant time goes from 86,399,999 to 0 (R165). -/
def execPlantTimeWrap (s : State) : Result :=
  act s.lastMs (fun s => { s with sup := { s.sup with plantTime := 0 } }) s

end Sys2Proof.Machine
end

