-- ==== Sys2Proof/Machine/LineEvents.lean ====
section
/-! DEFINITION. The events of the field lines: silence, the phases of a poll, its ending, and the quiet timer (R112, R117, R119,
R121, R122). -/

namespace Sys2Proof.Machine

/-- Which part of its life a poll is in, timers apart (Figure 6-2). -/
inductive PhaseKind where
  | sending | awaiting | receiving
deriving DecidableEq, Repr

/-- The kind of a phase. -/
def PollPhase.kind : PollPhase → PhaseKind
  | .sending => .sending
  | .awaiting _ => .awaiting
  | .receiving => .receiving

/-- Is a poll of line n in one of these phases? -/
def State.pollIn (s : State) (n : Nat) (ks : List PhaseKind) : Bool :=
  match (s.line n).poll with
  | none => false
  | some p => decide (p.phase.kind ∈ ks)

/-- An act on the poll in flight of line n. -/
def withPoll (n : Nat) (f : Poll → State → State) (s : State) : State :=
  match (s.line n).poll with
  | none => s
  | some p => f p s

/-- The silence of a line ends and it chooses (R112). -/
def silenceEnded (n : Nat) (s : State) : State := choosePoll n (s.setLine n { s.line n with silence := none })

/-- LINE_SILENCE_EXPIRY (R112). -/
def execLineSilenceExpiry (line : Fin Config.nLine) (s : State) : Result :=
  act (s.line line).silence.isSome (silenceEnded line) s

/-- POLL_FRAME_SENT: the reply timeout starts, with the value the poll was started with (R119). -/
def execPollFrameSent (line : Fin Config.nLine) (s : State) : Result :=
  act (s.pollIn line [.sending]) (withPoll line fun p => setPhase line (.awaiting (p.timeout * 1000))) s

/-- REPLY_SYNC_RECEIVED: 0x5B begins the reply (R119). -/
def execReplySyncReceived (line : Fin Config.nLine) (s : State) : Result :=
  act (s.pollIn line [.awaiting]) (setPhase line .receiving) s

/-- REPLY_TIMEOUT: no reply begun (R119, R121). -/
def execReplyTimeout (line : Fin Config.nLine) (s : State) : Result :=
  act (s.pollIn line [.awaiting]) (withPoll line (missPoll line)) s

/-- REPLY_GAP_TIMEOUT: a gap over 100 µs within a reply (R119, R121). -/
def execReplyGapTimeout (line : Fin Config.nLine) (s : State) : Result :=
  act (s.pollIn line [.receiving]) (withPoll line (missPoll line)) s

/-- REPLY_FRAMING_ERROR: a reply byte without its stop bit (R119, R121). -/
def execReplyFramingError (line : Fin Config.nLine) (s : State) : Result :=
  act (s.pollIn line [.receiving]) (withPoll line (missPoll line)) s

/-- DRIVE_REPLY: a complete reply (R119, R122). One that comes without its sync byte as a command of its own brings that byte
with it (log 13). -/
def execDriveReply (line : Fin Config.nLine) (bytes : List Byte) (s : State) : Result :=
  act (decide (bytes.length = 11) && s.pollIn line [.awaiting, .receiving])
    (withPoll line fun p => completePoll line p bytes) s

/-- The quiet timer of a line expires: it is reloaded and one QUERY starts (R117). -/
def quietExpired (n : Nat) (s : State) : State :=
  quietPoll n (s.setLine n { s.line n with quiet := some (s.limits.quietInterval * 1000) })

/-- QUIET_TIMER_EXPIRY (R117). -/
def execQuietTimerExpiry (line : Fin Config.nLine) (s : State) : Result :=
  act (s.sup.mode == .quiet && (s.line line).quiet.isSome) (quietExpired line) s

end Sys2Proof.Machine
end

