-- ==== Sys2Proof/Machine/MapRequests.lean ====
section
/-! DEFINITION. Requests on the aim map, the strategy and the zone allowances (R53 to R57, R60, R63, R68). -/

namespace Sys2Proof.Machine

/-! ## LOAD_AIM (R53 to R55) -/

/-- The lowest-numbered ENABLED entry that conflicts with a new one in slot k (R54). -/
def State.conflicting (s : State) (k : Nat) (e : AimEntry) : Option Nat :=
  firstFrom (fun j => j != k && e.conflicts (s.entry j)) Config.nSlot 0

def loadAimHandler : Handler := fun p s =>
  let k := fieldNat p 0 1
  match readAimFields p with
  | none => (s, bare .badField)
  | some e =>
    if 63 < k ∨ e.inRanges = false then (s, bare .badField)
    else if e.base % e.size ≠ 0 ∨ 2048 < e.base + e.size then (s, bare .align)
    else if (s.entry k).st ≠ .free then (s, bare .busy)
    else match s.conflicting k e with
      | some j => (s, [ResultCode.overlap.byte :: byte1 j])
      | none => (s.setEntry k e, okWith (aimBytes k e))

def execLoadAim (s : State) : Result := request 0x0C#8 (· == 20) loadAimHandler s

/-! ## DISABLE_AIM (R60), WIDEN_AIM (R57), READ_AIM (R56) -/

/-- The entry after DISABLE_AIM (R60). -/
def AimEntry.disabled (e : AimEntry) : AimEntry :=
  if e.st = .enabled then { e with st := if e.users = 0 then .free else .draining } else e

def disableAimHandler : Handler := fun p s =>
  let k := fieldNat p 0 1
  if 63 < k then (s, bare .badField)
  else
    let e := (s.entry k).disabled
    (s.setEntry k e, okWith (byte1 e.st.code ++ natBytes 2 e.users))

def execDisableAim (s : State) : Result := request 0x0D#8 (· == 1) disableAimHandler s

def widenAimHandler : Handler := fun p s =>
  let k := fieldNat p 0 1
  match dutySetOf (fieldNat p 1 1) with
  | none => (s, bare .badField)
  | some d =>
    if 63 < k then (s, bare .badField)
    else if (s.entry k).st ≠ .enabled then (s, bare .wrongState)
    else
      let e := { s.entry k with duties := (s.entry k).duties ||| d }
      (s.setEntry k e, okWith (byte1 e.duties.toNat))

def execWidenAim (s : State) : Result := request 0x0E#8 (· == 2) widenAimHandler s

def readAimHandler : Handler := fun p s =>
  let k := fieldNat p 0 1
  if 63 < k then (s, bare .badField) else (s, okWith (aimBytes k (s.entry k)))

def execReadAim (s : State) : Result := request 0x24#8 (· == 1) readAimHandler s

/-! ## SELECT_STRATEGY (R63) -/

def selectStrategyHandler : Handler := fun p s =>
  let v := fieldNat p 0 1
  if 15 < v then (s, bare .badField)
  else ({ s with sweep := { s.sweep with pendingStrategy := some v } }, okWith (byte1 s.sweep.active ++ byte1 v))

def execSelectStrategy (s : State) : Result := request 0x0F#8 (· == 1) selectStrategyHandler s

/-! ## SET_ALLOWANCE (R68) -/

/-- The values written as pending allowances of consecutive zones, each clamped to 16,777,215 (R68). -/
def setPending : (z : Nat) → List Nat → State → State
  | _, [], s => s
  | z, v :: rest, s => setPending (z + 1) rest (s.setZone z { s.zone z with pending := some (min 16777215 v) })

def setAllowanceHandler : Handler := fun p s =>
  let z := fieldNat p 0 1
  let vs := readValues p
  if 127 < z ∨ 128 < z + vs.length then (s, bare .badField)
  else (setPending z vs s, okWith (byte1 z ++ vs.flatMap (fun v => natBytes 3 (min 16777215 v))))

/-- A first zone and a whole number of values from 1 to 32 (R68). -/
def allowanceLength (n : Nat) : Bool := decide (5 ≤ n) && decide (n ≤ 129) && (n - 1) % 4 == 0

def execSetAllowance (s : State) : Result := request 0x10#8 allowanceLength setAllowanceHandler s

end Sys2Proof.Machine
end

