-- ==== Sys2Proof/Machine/ModeRequests.lean ====
section
/-! DEFINITION. Mode and permit requests (R152 to R154, R157 to R159). -/

namespace Sys2Proof.Machine

/-- A refused mode request, with the mode as it stands (R184). -/
def refuseMode (c : ResultCode) (s : State) : State × List (List Byte) := (s, modeReply c s)

/-- An accepted mode request, with the mode as the access left it (R184). -/
def acceptMode (s : State) : State × List (List Byte) := (s, modeReply .ok s)

/-! ## START (R152) -/

def startHandler : Handler := fun _ s =>
  if s.sup.mode ≠ .halted then refuseMode .wrongMode s
  else if s.sup.sunPresent = false then refuseMode .noSun s
  else acceptMode (enterTracking (setMode .tracking s))

def execStart (s : State) : Result := request 0x11#8 (· == 0) startHandler s

/-! ## HALT (R153) -/

/-- HALT, its first access: the checks and the change of mode; the occupied records follow, each as an access of its own. -/
def haltFirst (_ : List Byte) (s : State) : State × Served :=
  match s.sup.mode with
  | .stowing | .quiet => (s, .last (modeReply .wrongMode s))
  | .halted => (s, .last (modeReply .ok s))
  | .tracking | .stowed =>
    if s.anyReserved then (s, .last (modeReply .reserved s)) else haltFrom 0 (setMode .halted s)

def execHalt (s : State) : Result := requestByAccess 0x12#8 (· == 0) haltFirst s

/-! ## GRANT_PERMIT, REVOKE_PERMIT (R159) -/

/-- The host grant takes a value, and the permit is composed anew (R159, R160). -/
def setGrant (v excepted : Bool) (s : State) : State :=
  composePermit s.permit excepted { s with sup := { s.sup with grant := v } }

def grantPermitHandler : Handler := fun _ s => acceptMode (setGrant true false s)

def execGrantPermit (s : State) : Result := request 0x13#8 (· == 0) grantPermitHandler s

def revokePermitHandler : Handler := fun _ s => acceptMode (setGrant false false s)

def execRevokePermit (s : State) : Result := request 0x14#8 (· == 0) revokePermitHandler s

/-! ## STOW (R154) -/

def stowHandler : Handler := fun _ s => acceptMode (enterStowing s)

def execStow (s : State) : Result := request 0x15#8 (· == 0) stowHandler s

/-! ## RESUME (R157) -/

/-- The accepted RESUME: the mode TRACKING, a stow pass in progress ended, a sweep started or awaited (R155, R157). -/
def resumeField (s : State) : State :=
  let s1 := setMode .tracking s
  enterTracking { s1 with sup := { s1.sup with stowPass := none } }

def resumeHandler : Handler := fun _ s =>
  match s.sup.mode with
  | .halted | .tracking | .quiet => refuseMode .wrongMode s
  | .stowing | .stowed =>
    if s.sup.sunPresent = false then refuseMode .noSun s
    else if s.weather.stowIn.level then refuseMode .line s
    else if s.weather.wind ≠ .calm then refuseMode .windy s
    else acceptMode (resumeField s)

def execResume (s : State) : Result := request 0x16#8 (· == 0) resumeHandler s

/-! ## QUIET, WAKE (R158, R117) -/

/-- Entry into QUIET: every line loads its quiet timer (R117). -/
def quietField (s : State) : State :=
  let s1 := setMode .quiet s
  { s1 with lines := s1.lines.map (fun l => { l with quiet := some (s1.limits.quietInterval * 1000) }) }

def quietHandler : Handler := fun _ s =>
  match s.sup.mode with
  | .stowed => acceptMode (quietField s)
  | .quiet => acceptMode s
  | .halted | .tracking | .stowing => refuseMode .wrongMode s

def execQuiet (s : State) : Result := request 0x17#8 (· == 0) quietHandler s

/-- Each line of a list chooses a poll. -/
def chooseAll : List Nat → State → State
  | [], s => s
  | n :: rest, s => chooseAll rest (choosePoll n s)

/-- WAKE from QUIET: the mode STOWED, the stow test, the quiet timers stopped, and each line with no poll in flight choosing
one (R117, R158). -/
def wakeField (s : State) : State :=
  let s1 := stowTest (setMode .stowed s)
  chooseAll (List.range Config.nLine) { s1 with lines := s1.lines.map (fun l => { l with quiet := none }) }

def wakeHandler : Handler := fun _ s =>
  match s.sup.mode with
  | .quiet => acceptMode (wakeField s)
  | .stowed => acceptMode s
  | .halted | .tracking | .stowing => refuseMode .wrongMode s

def execWake (s : State) : Result := request 0x18#8 (· == 0) wakeHandler s

end Sys2Proof.Machine
end

