-- ==== Sys2Proof/WellFormed.lean ====
section
/-! DEFINITION. Which commands are well formed: the lengths that make a frame or a reply complete.
An ill-formed command is no event of the part; it leaves the state as it is (log 1). -/

namespace Sys2Proof

/-- A complete plant link frame after its sync byte (R180): LEN in 2..252, then LEN bytes, then two check bytes. -/
def completeFrame (frame : List Byte) : Bool :=
  match frame with
  | [] => false
  | len :: rest => decide (2 ≤ len.toNat) && decide (len.toNat ≤ 252) && decide (rest.length = len.toNat + 2)

/-- A complete drive reply after its sync byte is eleven bytes (R119, Table 10-10). -/
def completeReply (bytes : List Byte) : Bool := decide (bytes.length = 11)

/-- Well-formed commands. -/
def wellFormed : Instr → Bool
  | .plantFrameReceived frame => completeFrame frame
  | .driveReply _ bytes => completeReply bytes
  | .coldReset | .plantFrameGapTimeout | .frameSent | .unknownKindRequest | .setTime | .loadSun | .setLimits
  | .setMasks | .loadClass | .loadHeliostat | .removeHeliostat | .setDuty | .releaseHeliostat | .forgetHeliostat
  | .setStandby | .loadAim | .disableAim | .widenAim | .selectStrategy | .setAllowance | .start | .halt
  | .grantPermit | .revokePermit | .stow | .resume | .quiet | .wake | .restart | .readStatus | .setCursor
  | .readHeliostats | .readZones | .readAim | .readFault | .readMiss | .readWeather | .clearFlags | .setNotices
  | .readClass | .sweepTimerExpiry | .visit | .stowPassStep | .defocusPassStep | .lineSilenceExpiry _
  | .pollFrameSent _ | .replyTimeout _ | .replyGapTimeout _ | .quietTimerExpiry _ | .anemoEdge | .captureWrap
  | .windSample | .conversionStart | .dniReady | .conversionComplete _ | .dniReadyTimeout | .linePinChange _ _
  | .lineFilterExpiry _ | .silenceExpiry | .plantTimeWrap | .plantByteReceived _ | .plantFramingError
  | .replySyncReceived _ | .replyFramingError _ | .vacantIndexPassed | .coldResetEnd => true

end Sys2Proof
end

