-- ==== Sys2Proof/Machine/PortEvents.lean ====
section
/-! DEFINITION. The resets and the events of the plant link port: bytes and frames on PL_RXD (R180, R181), and the end of a frame
on PL_TXD (R183, R186). -/

namespace Sys2Proof.Machine

/-- COLD_RESET: power-on or assertion of the RESET line, in any state (R24, R187). -/
def execColdReset (s : State) : Result := .next (coldReset s)

/-- COLD_RESET_END: the RESET line is released (R143, R183). -/
def execColdResetEnd (s : State) : Result := .next (if s.inReset then leaveReset s else s)

/-- PLANT_FRAME_RECEIVED: the frame that the receiver has taken is complete (R180, R181). -/
def execPlantFrameReceived (frame : List Byte) (s : State) : Result :=
  act (completeFrame frame && s.link.rx.fits frame) (takeFrame frame) s

/-- PLANT_BYTE_RECEIVED: a byte with its stop bit (R180). -/
def execPlantByteReceived (b : Byte) (s : State) : Result := act true (takeByte b) s

/-- Is a frame being received? -/
def Rx.busy (rx : Rx) : Bool :=
  match rx with
  | .hunting => false
  | .receiving _ _ => true

/-- The partial frame is discarded (R180). -/
def dropPartial (s : State) : State := { s with link := { s.link with rx := .hunting } }

/-- PLANT_FRAME_GAP_TIMEOUT: more than 1 ms since the last byte of a partial frame (R180). -/
def execPlantFrameGapTimeout (s : State) : Result := act s.link.rx.busy dropPartial s

/-- PLANT_FRAMING_ERROR: a byte of a partial frame without its stop bit (R180). -/
def execPlantFramingError (s : State) : Result := act s.link.rx.busy dropPartial s

/-- FRAME_SENT: the last byte of the frame being sent has gone (R181, R183, R186). -/
def execFrameSent (s : State) : Result := act s.link.tx.isSome frameEnd s

end Sys2Proof.Machine
end

