-- ==== Sys2Proof/Machine/ReadRequests.lean ====
section
/-! DEFINITION. Requests that read: status, records, zones, the fault record, the misses and the weather (R46, R70, R149, R174,
R178, R188). READ_AIM and READ_CLASS stand with their tables. -/

namespace Sys2Proof.Machine

/-- READ_STATUS: the reply at one moment; then MODE, DRAINED and QUIET are cleared with the QUIET information and the drained
list (R188). -/
def readStatusHandler : Handler := fun _ s =>
  ({ s with
      notices := { s.notices.clearSet (NoticeSrc.mode.bit ||| NoticeSrc.drained.bit ||| NoticeSrc.quiet.bit) with
        quiet := none, quietCount := 0 }
      drained := [] },
   okWith s.statusBytes)

def execReadStatus (s : State) : Result := request 0x20#8 (· == 0) readStatusHandler s

/-- READ_HELIOSTATS, its first access: the check, and the first of up to n records from the cursor (R46). -/
def readHeliostatsFirst (p : List Byte) (s : State) : State × Served :=
  let n := fieldNat p 0 1
  if n = 0 ∨ 8 < n then (s, .last (bare .badField))
  else if s.link.cursor < 2048 then readRecord s.link.cursor (min n (2048 - s.link.cursor)) [] s
  else endRead s.link.cursor [] s

def execReadHeliostats (s : State) : Result := requestByAccess 0x22#8 (· == 1) readHeliostatsFirst s

/-- READ_ZONES: up to 16 zones at one moment (R70), in segments of 247 bytes of entries (Table 10-6). -/
def readZonesHandler : Handler := fun p s =>
  let z := fieldNat p 0 1
  let n := fieldNat p 1 1
  if 127 < z ∨ n = 0 ∨ 16 < n then (s, bare .badField)
  else
    let entries := (List.range (min n (128 - z))).map (fun j => zoneBytes (z + j) (s.zone (z + j)))
    (s, buildSegments [] 0 (packEntries 247 [] entries))

def execReadZones (s : State) : Result := request 0x23#8 (· == 2) readZonesHandler s

/-- READ_FAULT, which clears the ALERT source (R174). -/
def readFaultHandler : Handler := fun _ s =>
  ({ s with notices := s.notices.clearSet NoticeSrc.alert.bit }, okWith s.exc.readBytes)

def execReadFault (s : State) : Result := request 0x25#8 (· == 0) readFaultHandler s

/-- READ_MISS, which clears the MISS source and its information (R178). -/
def readMissHandler : Handler := fun _ s =>
  ({ s with notices := { s.notices.clearSet NoticeSrc.miss.bit with miss := none, missCount := 0 } },
   okWith s.notices.missBytes)

def execReadMiss (s : State) : Result := request 0x26#8 (· == 0) readMissHandler s

/-- READ_WEATHER, which clears the WIND source (R149). -/
def readWeatherHandler : Handler := fun _ s =>
  ({ s with notices := s.notices.clearSet NoticeSrc.wind.bit }, okWith s.weather.bytes)

def execReadWeather (s : State) : Result := request 0x27#8 (· == 0) readWeatherHandler s

end Sys2Proof.Machine
end

