-- ==== Sys2Proof/Machine/SetupRequests.lean ====
section
/-! DEFINITION. Requests that set plant time, the sun record, limits, masks, notice enables and the cursor, that clear the flags
and that restart the part (R2, R45, R165, R172, R173, R177, R182, R185, R186). -/

namespace Sys2Proof.Machine

/-! ## SET_TIME (R165) -/

def setTimeHandler : Handler := fun p s =>
  let v := fieldNat p 0 4
  if 86399999 < v then (s, bare .badField)
  else ({ s with sup := { s.sup with plantTime := v, timeSet := true } }, okWith (natBytes 4 v))

def execSetTime (s : State) : Result := request 0x01#8 (· == 4) setTimeHandler s

/-! ## LOAD_SUN (R2) -/

/-- The sun record as LOAD_SUN stores it: azimuth reduced, elevation and rates clamped (R2). -/
def storedSun (p : List Byte) : SunRecord :=
  { tRef := fieldNat p 0 4
    azRef := fieldInt p 4 4 % 360000000
    elRef := clampInt (-90000000) 90000000 (fieldInt p 8 4)
    azRate := clampInt (-200000) 200000 (fieldInt p 12 4)
    elRate := clampInt (-200000) 200000 (fieldInt p 16 4) }

def loadSunHandler : Handler := fun p s =>
  if 86399999 < fieldNat p 0 4 then (s, bare .badField)
  else if s.sup.timeSet = false then (s, bare .noTime)
  else ({ s with sup := { s.sup with sun := storedSun p, sunPresent := true } }, okWith (storedSun p).bytes)

def execLoadSun (s : State) : Result := request 0x02#8 (· == 20) loadSunHandler s

/-! ## SET_LIMITS (R185, R135) -/

/-- One pair applied: the value clamped into its limit's range and stored; none for an id that Table 10-1 does not hold. -/
def setLimit (l : Config.Limits) (id v : Nat) : Option Config.Limits :=
  match id with
  | 0x01 => some { l with sweepPeriod := clampNat 1000 60000 v }
  | 0x02 => some { l with sunValidity := clampNat 10 600 v }
  | 0x03 => some { l with minSunEl := clampNat 0 30000 v }
  | 0x04 => some { l with silenceTimeout := clampNat 1 60 v }
  | 0x05 => some { l with replyTimeout := clampNat 1 20 v }
  | 0x06 => some { l with lostLimit := clampNat 1 15 v }
  | 0x07 => some { l with watchInterval := clampNat 5 600 v }
  | 0x08 => some { l with quietInterval := clampNat 100 10000 v }
  | 0x09 => some { l with pulseDistance := clampNat 1000 10000000 v }
  | 0x0A => some { l with gustStow := clampNat 1000 80000 v }
  | 0x0B => some { l with sustainedStow := clampNat 1000 80000 v }
  | 0x0C => some { l with gustResume := clampNat 1 (l.gustStow - 1) v }
  | 0x0D => some { l with sustainedResume := clampNat 1 (l.sustainedStow - 1) v }
  | 0x0E => some { l with resumeHold := clampNat 60 3600 v }
  | 0x0F => some { l with span := clampNat 500 3000 v }
  | 0x10 => some { l with decayStep := clampNat 1 200 v }
  | 0x11 => some { l with fallback := clampNat 0 1400 v }
  | _ => none

/-- The stored value of a limit by its id. -/
def limitValue (l : Config.Limits) (id : Nat) : Nat :=
  match id with
  | 0x01 => l.sweepPeriod | 0x02 => l.sunValidity | 0x03 => l.minSunEl | 0x04 => l.silenceTimeout
  | 0x05 => l.replyTimeout | 0x06 => l.lostLimit | 0x07 => l.watchInterval | 0x08 => l.quietInterval
  | 0x09 => l.pulseDistance | 0x0A => l.gustStow | 0x0B => l.sustainedStow | 0x0C => l.gustResume
  | 0x0D => l.sustainedResume | 0x0E => l.resumeHold | 0x0F => l.span | 0x10 => l.decayStep | 0x11 => l.fallback
  | _ => 0

/-- The pairs applied in order; none when an id is unknown (R185). -/
def applyPairs (l : Config.Limits) : List (Nat × Nat) → Option Config.Limits
  | [] => some l
  | p :: rest =>
    match setLimit l p.1 p.2 with
    | some l' => applyPairs l' rest
    | none => none

/-- After the last pair, each resume limit is clamped to its stow limit minus 1 (R135, R185). -/
def clampResume (l : Config.Limits) : Config.Limits :=
  { l with
    gustResume := clampNat 1 (l.gustStow - 1) l.gustResume
    sustainedResume := clampNat 1 (l.sustainedStow - 1) l.sustainedResume }

def setLimitsHandler : Handler := fun p s =>
  let pairs := readPairs p
  match applyPairs s.limits pairs with
  | none => (s, bare .badField)
  | some l0 =>
    let l := clampResume l0
    let s1 := { s with limits := l }
    (if l.silenceTimeout = s.limits.silenceTimeout then s1 else restartSilence s1,
     okWith (pairs.flatMap (fun q => byte1 q.1 ++ natBytes 4 (limitValue l q.1))))

/-- 5 to 100 bytes, a whole number of 5-byte pairs (R185). -/
def limitsLength (n : Nat) : Bool := decide (5 ≤ n) && decide (n ≤ 100) && n % 5 == 0

def execSetLimits (s : State) : Result := request 0x03#8 limitsLength setLimitsHandler s

/-! ## SET_MASKS (R172), CLEAR_FLAGS (R173), SET_NOTICES (R177) -/

def setMasksHandler : Handler := fun p s =>
  let s1 := setExc { s.exc with masks := BitVec.ofNat 16 (fieldNat p 0 2) } s
  (s1, okWith (natBytes 2 s1.exc.masks.toNat ++ boolByte s1.exc.alert))

def execSetMasks (s : State) : Result := request 0x04#8 (· == 2) setMasksHandler s

def clearFlagsHandler : Handler := fun _ s =>
  (setExc { s.exc with flags := 0#16, fault := none, count := 0 } s, bare .ok)

def execClearFlags (s : State) : Result := request 0x28#8 (· == 0) clearFlagsHandler s

/-- The enables replaced: due indications of sources now disabled clear, those of pending sources newly enabled set (R177). -/
def Notices.withEnable (e : BitVec 6) (n : Notices) : Notices :=
  { n with enable := e, due := (n.due &&& e) ||| (n.pend &&& e &&& ~~~n.enable) }

def setNoticesHandler : Handler := fun p s =>
  match noticeSetOf (fieldNat p 0 1) with
  | none => (s, bare .badField)
  | some e =>
    ({ s with notices := s.notices.withEnable e }, okWith (byte1 e.toNat ++ byte1 s.notices.pend.toNat))

def execSetNotices (s : State) : Result := request 0x29#8 (· == 1) setNoticesHandler s

/-! ## SET_CURSOR (R45), RESTART (R186), unknown kinds (R182) -/

def setCursorHandler : Handler := fun p s =>
  let v := fieldNat p 0 2
  if 2048 < v then (s, bare .badField)
  else ({ s with link := { s.link with cursor := v } }, okWith (natBytes 2 v))

def execSetCursor (s : State) : Result := request 0x21#8 (· == 2) setCursorHandler s

def restartHandler : Handler := fun _ s => (s, bare .ok)

def execRestart (s : State) : Result := request 0x19#8 (· == 0) restartHandler s

/-- A next request whose kind names no request is answered UNKNOWN_KIND (R182). -/
def answerUnknown (s : State) : State :=
  match s.nextRequest with
  | none => s
  | some r => if knownKind r.kind then s else replyTo r (bare .unknownKind) false s

def execUnknownKindRequest (s : State) : Result := act true answerUnknown s

end Sys2Proof.Machine
end

