-- ==== Sys2Proof/Machine/TableRequests.lean ====
section
/-! DEFINITION. Requests on drive classes, heliostat records and standby points (R29 to R32, R37 to R44). -/

namespace Sys2Proof.Machine

/-! ## LOAD_CLASS (R30, R31), READ_CLASS (R29) -/

/-- Does an occupied record of the class hold a reservation (R30)? -/
def State.classInUse (s : State) (c : Nat) : Bool :=
  s.helios.toList.any (fun h => h.occupied && h.cls == c && h.reserved)

/-- The class replaced, and the targets of its occupied records refitted (R31). -/
def replaceClass (n : Nat) (c : DriveClass) (s : State) : State :=
  { s.mapHelios (fun h => if h.occupied && h.cls == n then h.refit c else h) with
    classes := s.classes.setIfInBounds n c }

def loadClassHandler : Handler := fun p s =>
  let n := fieldNat p 0 1
  match readClassFields p with
  | none => (s, bare .badField)
  | some c =>
    if 7 < n ∨ c.inRanges = false then (s, bare .badField)
    else if s.classInUse n then (s, bare .inUse)
    else (stowTest (replaceClass n c s), bare .ok)

def execLoadClass (s : State) : Result := request 0x05#8 (· == 47) loadClassHandler s

def readClassHandler : Handler := fun p s =>
  let n := fieldNat p 0 1
  if 7 < n then (s, bare .badField)
  else (s, okWith (byte1 n ++ boolByte (s.driveClass n).valid ++ (s.driveClass n).bytes))

def execReadClass (s : State) : Result := request 0x2A#8 (· == 1) readClassHandler s

/-! ## LOAD_HELIOSTAT (R37 to R40) -/

/-- Does another occupied record hold the line and address (R37, check 3)? -/
def State.addressTaken (s : State) (i line addr : Nat) : Bool :=
  s.helios.toList.zipIdx.any (fun p => p.2 != i && p.1.occupied && p.1.line == line && p.1.addr == addr)

/-- A record joins a ring: its last carried target is absent, and a line whose ring was empty chooses a poll once the access
has been served (R113, log 15). -/
def joinRing (wasEmpty : Bool) (n : Nat) (s : State) : State := if wasEmpty then choosePoll n s else s

/-- The load of a VACANT record, or of one with a new line or address (R38): polls in flight to the index become void, the
record leaves its old place in the rings and joins the new one, its dynamic fields cleared. -/
def loadFresh (i : Nat) (f : Helio) (s : State) : State :=
  let h := s.helio i
  let s1 := voidPolls i s
  let s2 := if h.occupied then forgetCarried h.line h.addr s1 else s1
  (forgetCarried f.line f.addr s2).setHelio i f

/-- The load of an occupied record at the same line and address (R39). -/
def loadKept (i : Nat) (f : Helio) (s : State) : State :=
  let h := s.helio i
  let h1 := h.withStatic f
  s.setHelio i (if h.cls = f.cls then h1 else h1.refit (s.driveClass f.cls))

/-- In the stow modes the loaded record becomes CLEAR and is offered STOW (R40). -/
def loadInStow (i : Nat) (s : State) : State :=
  match s.sup.mode with
  | .stowing | .stowed | .quiet =>
    let s1 := s.setHelio i ((s.helio i).toState .clear)
    offer i (stowTarget (s1.classOf i)) s1
  | .halted | .tracking => s

/-- The accepted load (R38 to R40), with the choice of a line whose empty ring gained a member (R113) and the stow test (R156). -/
def acceptLoad (i : Nat) (f : Helio) (s : State) : State :=
  let h := s.helio i
  let fresh := !h.occupied || h.line != f.line || h.addr != f.addr
  let wasEmpty := (s.ring f.line).isEmpty
  let s1 := loadInStow i (if fresh then loadFresh i f s else loadKept i f s)
  stowTest (joinRing (fresh && wasEmpty) f.line s1)

def loadHeliostatHandler : Handler := fun p s =>
  let i := fieldNat p 0 2
  match readHelioFields p with
  | none => (s, bare .badField)
  | some f =>
    if 2047 < i ∨ f.inRanges = false then (s, bare .badField)
    else if (s.driveClass f.cls).valid = false then (s, bare .noClass)
    else if s.addressTaken i f.line f.addr then (s, bare .addressTaken)
    else if (s.helio i).reserved then (s, bare .reserved)
    else (acceptLoad i f s, bare .ok)

def execLoadHeliostat (s : State) : Result := request 0x06#8 (· == 27) loadHeliostatHandler s

/-! ## REMOVE_HELIOSTAT (R41) -/

/-- The record becomes VACANT and leaves its ring; polls in flight to it become void; the stow test follows (R41, R156). -/
def removeRecord (i : Nat) (s : State) : State :=
  let h := s.helio i
  stowTest ((forgetCarried h.line h.addr (voidPolls i s)).setHelio i {})

def removeHeliostatHandler : Handler := fun p s =>
  let i := fieldNat p 0 2
  if 2047 < i then (s, bare .badField)
  else if (s.helio i).reserved then (s, bare .reserved)
  else if (s.helio i).occupied then (removeRecord i s, bare .ok)
  else (s, bare .ok)

def execRemoveHeliostat (s : State) : Result := request 0x07#8 (· == 2) removeHeliostatHandler s

/-! ## SET_DUTY (R42), RELEASE_HELIOSTAT (R43), FORGET_HELIOSTAT (R44) -/

def setDutyHandler : Handler := fun p s =>
  let i := fieldNat p 0 2
  match dutyOf (fieldNat p 2 1) with
  | none => (s, bare .badField)
  | some d =>
    if 2047 < i then (s, bare .badField)
    else if (s.helio i).occupied = false then (s, bare .wrongState)
    else (s.setHelio i { s.helio i with duty := d }, bare .ok)

def execSetDuty (s : State) : Result := request 0x08#8 (· == 3) setDutyHandler s

/-- RELEASE_HELIOSTAT, its first access: one record, or record 0 of all of them (R43). -/
def releaseHeliostatFirst (p : List Byte) (s : State) : State × Served :=
  let i := fieldNat p 0 2
  if i = 0xFFFF then releaseRecord 0 s
  else if 2047 < i then (s, .last (bare .badField))
  else (unlatch i s, .last (bare .ok))

def execReleaseHeliostat (s : State) : Result := requestByAccess 0x09#8 (· == 2) releaseHeliostatFirst s

def forgetHeliostatHandler : Handler := fun p s =>
  let i := fieldNat p 0 2
  if 2047 < i then (s, bare .badField)
  else if (s.helio i).st = .leaving then (releaseAll i s, bare .ok)
  else (s, bare .wrongState)

def execForgetHeliostat (s : State) : Result := request 0x0A#8 (· == 2) forgetHeliostatHandler s

/-! ## SET_STANDBY (R32) -/

def setStandbyHandler : Handler := fun p s =>
  let n := fieldNat p 0 1
  let pt : Point := ⟨fieldInt p 1 4, fieldInt p 5 4, fieldInt p 9 4⟩
  if n ≤ 3 ∧ inRange (-2000000) 2000000 pt.x ∧ inRange (-2000000) 2000000 pt.y ∧ inRange 0 2000000 pt.z then
    ({ s with standbys := s.standbys.setIfInBounds n pt },
     okWith (byte1 n ++ intBytes 4 pt.x ++ intBytes 4 pt.y ++ intBytes 4 pt.z))
  else (s, bare .badField)

def execSetStandby (s : State) : Result := request 0x0B#8 (· == 13) setStandbyHandler s

end Sys2Proof.Machine
end

