-- ==== Sys2Proof/Machine/WeatherEvents.lean ====
section
/-! DEFINITION. The events of the weather monitor: the anemometer (R136 to R142), the conversion cycle (R143 to R146) and the
line filters (R147, R148). -/

namespace Sys2Proof.Machine

/-- The weather monitor's state changed. -/
def onWeather (f : Weather → Weather) (s : State) : State := { s with weather := f s.weather }

/-- ANEMO_EDGE (R136). -/
def execAnemoEdge (s : State) : Result := act true (onWeather (takeEdge s.limits.pulseDistance)) s

/-- CAPTURE_WRAP: while the chain is TIMING (R137). -/
def execCaptureWrap (s : State) : Result := act (s.weather.chain != .idle) (onWeather takeWrap) s

/-- WIND_SAMPLE (R139 to R142). -/
def execWindSample (s : State) : Result := act true takeSample s

/-- CONVERSION_START: the conversion timer is loaded anew and the cycle enters CONVERTING (R143). -/
def execConversionStart (s : State) : Result :=
  act true (onWeather fun w => { w with conv := .converting Config.readyUs, convLeft := Config.sampleUs }) s

/-- Is the cycle in CONVERTING? -/
def Conv.isConverting : Conv → Bool
  | .converting _ => true
  | .waiting | .reading => false

/-- DNI_READY: DNI_DRDY is asserted in CONVERTING (R143). -/
def execDniReady (s : State) : Result :=
  act s.weather.conv.isConverting (onWeather fun w => { w with conv := .reading }) s

/-- The code of the cycle is taken: a reading, or 0xFFFF, a sensor fault (R144, R146). -/
def takeCode (code : BitVec 16) (s : State) : State :=
  if code = 0xFFFF#16 then sensorFaultCycle s else takeReading code.toNat s

/-- CONVERSION_COMPLETE: the sixteenth bit has been clocked in (R143, R144). -/
def execConversionComplete (code : BitVec 16) (s : State) : Result :=
  act (s.weather.conv == .reading) (takeCode code) s

/-- DNI_READY_TIMEOUT: 20 ms in CONVERTING without ready (R143, R146). -/
def execDniReadyTimeout (s : State) : Result := act s.weather.conv.isConverting sensorFaultCycle s

/-- LINE_PIN_CHANGE: the pin takes a level; while the RESET line is asserted no hold timer runs (R147, log 30). -/
def execLinePinChange (pin : InputPin) (level : Bool) (s : State) : Result :=
  if s.inReset then .next (s.setFilter pin { s.filter pin with pin := level })
  else act true (fun s => s.setFilter pin ((s.filter pin).pinTo level)) s

/-- LINE_FILTER_EXPIRY: the hold timer of the pin has run its 10 ms (R147). -/
def execLineFilterExpiry (pin : InputPin) (s : State) : Result :=
  act (s.filter pin).hold.isSome (filterChange pin) s

end Sys2Proof.Machine
end

