-- ==== Sys2Proof/Machine/Dispatch.lean ====
section
/-! DEFINITION. The meaning of every command, one arm for each row of spec/opcode_table.json. -/

namespace Sys2Proof.Machine

def exec (i : Instr) (s : State) : Host.Outcome State Fault Refusal :=
  match i with
  | .coldReset => Sys2Proof.Machine.execColdReset s
  | .plantFrameReceived frame => Sys2Proof.Machine.execPlantFrameReceived frame s
  | .plantFrameGapTimeout => Sys2Proof.Machine.execPlantFrameGapTimeout s
  | .frameSent => Sys2Proof.Machine.execFrameSent s
  | .unknownKindRequest => Sys2Proof.Machine.execUnknownKindRequest s
  | .setTime => Sys2Proof.Machine.execSetTime s
  | .loadSun => Sys2Proof.Machine.execLoadSun s
  | .setLimits => Sys2Proof.Machine.execSetLimits s
  | .setMasks => Sys2Proof.Machine.execSetMasks s
  | .loadClass => Sys2Proof.Machine.execLoadClass s
  | .loadHeliostat => Sys2Proof.Machine.execLoadHeliostat s
  | .removeHeliostat => Sys2Proof.Machine.execRemoveHeliostat s
  | .setDuty => Sys2Proof.Machine.execSetDuty s
  | .releaseHeliostat => Sys2Proof.Machine.execReleaseHeliostat s
  | .forgetHeliostat => Sys2Proof.Machine.execForgetHeliostat s
  | .setStandby => Sys2Proof.Machine.execSetStandby s
  | .loadAim => Sys2Proof.Machine.execLoadAim s
  | .disableAim => Sys2Proof.Machine.execDisableAim s
  | .widenAim => Sys2Proof.Machine.execWidenAim s
  | .selectStrategy => Sys2Proof.Machine.execSelectStrategy s
  | .setAllowance => Sys2Proof.Machine.execSetAllowance s
  | .start => Sys2Proof.Machine.execStart s
  | .halt => Sys2Proof.Machine.execHalt s
  | .grantPermit => Sys2Proof.Machine.execGrantPermit s
  | .revokePermit => Sys2Proof.Machine.execRevokePermit s
  | .stow => Sys2Proof.Machine.execStow s
  | .resume => Sys2Proof.Machine.execResume s
  | .quiet => Sys2Proof.Machine.execQuiet s
  | .wake => Sys2Proof.Machine.execWake s
  | .restart => Sys2Proof.Machine.execRestart s
  | .readStatus => Sys2Proof.Machine.execReadStatus s
  | .setCursor => Sys2Proof.Machine.execSetCursor s
  | .readHeliostats => Sys2Proof.Machine.execReadHeliostats s
  | .readZones => Sys2Proof.Machine.execReadZones s
  | .readAim => Sys2Proof.Machine.execReadAim s
  | .readFault => Sys2Proof.Machine.execReadFault s
  | .readMiss => Sys2Proof.Machine.execReadMiss s
  | .readWeather => Sys2Proof.Machine.execReadWeather s
  | .clearFlags => Sys2Proof.Machine.execClearFlags s
  | .setNotices => Sys2Proof.Machine.execSetNotices s
  | .readClass => Sys2Proof.Machine.execReadClass s
  | .sweepTimerExpiry => Sys2Proof.Machine.execSweepTimerExpiry s
  | .visit => Sys2Proof.Machine.execVisit s
  | .stowPassStep => Sys2Proof.Machine.execStowPassStep s
  | .defocusPassStep => Sys2Proof.Machine.execDefocusPassStep s
  | .lineSilenceExpiry line => Sys2Proof.Machine.execLineSilenceExpiry line s
  | .pollFrameSent line => Sys2Proof.Machine.execPollFrameSent line s
  | .replyTimeout line => Sys2Proof.Machine.execReplyTimeout line s
  | .replyGapTimeout line => Sys2Proof.Machine.execReplyGapTimeout line s
  | .driveReply line bytes => Sys2Proof.Machine.execDriveReply line bytes s
  | .quietTimerExpiry line => Sys2Proof.Machine.execQuietTimerExpiry line s
  | .anemoEdge => Sys2Proof.Machine.execAnemoEdge s
  | .captureWrap => Sys2Proof.Machine.execCaptureWrap s
  | .windSample => Sys2Proof.Machine.execWindSample s
  | .conversionStart => Sys2Proof.Machine.execConversionStart s
  | .dniReady => Sys2Proof.Machine.execDniReady s
  | .conversionComplete code => Sys2Proof.Machine.execConversionComplete code s
  | .dniReadyTimeout => Sys2Proof.Machine.execDniReadyTimeout s
  | .linePinChange pin level => Sys2Proof.Machine.execLinePinChange pin level s
  | .lineFilterExpiry pin => Sys2Proof.Machine.execLineFilterExpiry pin s
  | .silenceExpiry => Sys2Proof.Machine.execSilenceExpiry s
  | .plantTimeWrap => Sys2Proof.Machine.execPlantTimeWrap s
  | .plantByteReceived b => Sys2Proof.Machine.execPlantByteReceived b s
  | .plantFramingError => Sys2Proof.Machine.execPlantFramingError s
  | .replySyncReceived line => Sys2Proof.Machine.execReplySyncReceived line s
  | .replyFramingError line => Sys2Proof.Machine.execReplyFramingError line s
  | .vacantIndexPassed => Sys2Proof.Machine.execVacantIndexPassed s
  | .coldResetEnd => Sys2Proof.Machine.execColdResetEnd s

end Sys2Proof.Machine
end

