-- ==== Sys2Proof/Machine/Payloads.lean ====
section
/-! DEFINITION. The request payloads as the plant controller writes them (Table 10-3), field by field, most significant byte first
(R189). The part reads them in Machine/Operands.lean; these writers are what statements about requests speak of. -/

namespace Sys2Proof.Machine

/-- LOAD_CLASS: the class number and the 46 bytes of the fields. -/
def classPayload (n : Nat) (c : DriveClass) : List Byte := byte1 n ++ c.bytes

/-- LOAD_HELIOSTAT: the index and the static fields. -/
def helioPayload (i : Nat) (h : Helio) : List Byte :=
  natBytes 2 i ++ byte1 h.line ++ byte1 h.addr ++ byte1 h.cls
    ++ intBytes 4 h.pivot.x ++ intBytes 4 h.pivot.y ++ intBytes 4 h.pivot.z
    ++ intBytes 2 h.azCal ++ intBytes 2 h.elCal ++ intBytes 2 h.aimOff
    ++ byte1 h.standby ++ natBytes 2 h.weight ++ byte1 h.duty.code

/-- LOAD_AIM: the slot and the fields of the entry. -/
def aimPayload (k : Nat) (e : AimEntry) : List Byte :=
  byte1 k ++ byte1 e.strategy ++ boolByte e.shared ++ natBytes 2 e.base ++ byte1 (spanCode e.size)
    ++ intBytes 4 e.aim.x ++ intBytes 4 e.aim.y ++ intBytes 4 e.aim.z ++ byte1 e.zone ++ byte1 e.duties.toNat

/-- SET_STANDBY: the point number and the three coordinates. -/
def standbyPayload (n : Nat) (p : Point) : List Byte :=
  byte1 n ++ intBytes 4 p.x ++ intBytes 4 p.y ++ intBytes 4 p.z

/-- SET_LIMITS: the pairs of a limit id and a value. -/
def limitsPayload (pairs : List (Nat × Nat)) : List Byte :=
  pairs.flatMap fun p => byte1 p.1 ++ natBytes 4 p.2

/-- SET_ALLOWANCE: the first zone and the values. -/
def allowancePayload (z : Nat) (values : List Nat) : List Byte := byte1 z ++ values.flatMap (natBytes 4)

/-- A drive's reply after its sync byte (Table 10-10). -/
def replySpan (f : Machine.Reported) (addr : Nat) (isLocal accepted : Bool) : List Byte :=
  byte1 addr ++ byte1 (bitsOf [f.settled, isLocal, accepted]) ++ byte1 f.fault ++ intBytes 3 f.az ++ intBytes 3 f.el

/-- The reply with its check. -/
def replyBytes (f : Machine.Reported) (addr : Nat) (isLocal accepted : Bool) : List Byte :=
  let span := replySpan f addr isLocal accepted
  span ++ crcBytes span

end Sys2Proof.Machine
end

