-- ==== Sys2Proof/Safety.lean ====
section
/-! DEFINITION. What the statements speak of: requests and their answers, the output pins, and the laws that every state of a run
keeps. -/

namespace Sys2Proof.Machine

/-! ## Requests and answers -/

/-- The port is about to carry out request r, of this kind and payload (R182). -/
def State.asks (s : State) (r : Req) (kind : Byte) (payload : List Byte) : Prop :=
  s.inReset = false ∧ s.nextRequest = some r ∧ r.kind = kind ∧ r.payload = payload

/-- The state in which request r has been answered with these segments and the arbiter has acted (R179, R182, R183). -/
def State.answered (s : State) (r : Req) (segments : List (List Byte)) : State := arbiter (replyTo r segments false s)

/-- Everything but the plant link port: what replies and notices being sent leave alone. -/
def State.sansPort (s : State) : State := { s with link := {}, notices := {} }

/-- The kind and the payload lengths of a request row (Table 10-3); none for a row that is no request of the table. -/
def requestRow : Instr → Option (Byte × (Nat → Bool))
  | .setTime => some (0x01#8, (· == 4))
  | .loadSun => some (0x02#8, (· == 20))
  | .setLimits => some (0x03#8, fun n => decide (1 ≤ n) && decide (n ≤ 100) && n % 5 == 0)
  | .setMasks => some (0x04#8, (· == 2))
  | .loadClass => some (0x05#8, (· == 47))
  | .loadHeliostat => some (0x06#8, (· == 27))
  | .removeHeliostat => some (0x07#8, (· == 2))
  | .setDuty => some (0x08#8, (· == 3))
  | .releaseHeliostat => some (0x09#8, (· == 2))
  | .forgetHeliostat => some (0x0A#8, (· == 2))
  | .setStandby => some (0x0B#8, (· == 13))
  | .loadAim => some (0x0C#8, (· == 20))
  | .disableAim => some (0x0D#8, (· == 1))
  | .widenAim => some (0x0E#8, (· == 2))
  | .selectStrategy => some (0x0F#8, (· == 1))
  | .setAllowance => some (0x10#8, fun n => decide (5 ≤ n) && decide (n ≤ 129) && n % 4 == 1)
  | .start => some (0x11#8, (· == 0))
  | .halt => some (0x12#8, (· == 0))
  | .grantPermit => some (0x13#8, (· == 0))
  | .revokePermit => some (0x14#8, (· == 0))
  | .stow => some (0x15#8, (· == 0))
  | .resume => some (0x16#8, (· == 0))
  | .quiet => some (0x17#8, (· == 0))
  | .wake => some (0x18#8, (· == 0))
  | .restart => some (0x19#8, (· == 0))
  | .readStatus => some (0x20#8, (· == 0))
  | .setCursor => some (0x21#8, (· == 2))
  | .readHeliostats => some (0x22#8, (· == 1))
  | .readZones => some (0x23#8, (· == 2))
  | .readAim => some (0x24#8, (· == 1))
  | .readFault => some (0x25#8, (· == 0))
  | .readMiss => some (0x26#8, (· == 0))
  | .readWeather => some (0x27#8, (· == 0))
  | .clearFlags => some (0x28#8, (· == 0))
  | .setNotices => some (0x29#8, (· == 1))
  | .readClass => some (0x2A#8, (· == 1))
  | .coldReset | .plantFrameReceived _ | .plantFrameGapTimeout | .frameSent | .unknownKindRequest | .sweepTimerExpiry
  | .visit | .stowPassStep | .defocusPassStep | .lineSilenceExpiry _ | .pollFrameSent _ | .replyTimeout _
  | .replyGapTimeout _ | .driveReply _ _ | .quietTimerExpiry _ | .anemoEdge | .captureWrap | .windSample
  | .conversionStart | .dniReady | .conversionComplete _ | .dniReadyTimeout | .linePinChange _ _ | .lineFilterExpiry _
  | .silenceExpiry | .plantTimeWrap | .plantByteReceived _ | .plantFramingError | .replySyncReceived _
  | .replyFramingError _ | .vacantIndexPassed | .coldResetEnd => none

/-- Commands taken one after another. -/
def runCommands : List Instr → State → Result
  | [], s => .next s
  | c :: rest, s =>
    match exec c s with
    | .next t => runCommands rest t
    | .fault r => .fault r
    | .refused r => .refused r

/-- The range of a limit with a fixed range, by its id (Table 10-1); the two resume limits, 0x0C and 0x0D, have none. -/
def limitRange : Nat → Option (Nat × Nat)
  | 0x01 => some (1000, 60000)
  | 0x02 => some (10, 600)
  | 0x03 => some (0, 30000)
  | 0x04 => some (1, 60)
  | 0x05 => some (1, 20)
  | 0x06 => some (1, 15)
  | 0x07 => some (5, 600)
  | 0x08 => some (100, 10000)
  | 0x09 => some (1000, 10000000)
  | 0x0A => some (1000, 80000)
  | 0x0B => some (1000, 80000)
  | 0x0E => some (60, 3600)
  | 0x0F => some (500, 3000)
  | 0x10 => some (1, 200)
  | 0x11 => some (0, 1400)
  | _ => none

/-- The notice sources in the arbiter's order (Table 9-2, R179). -/
def noticeOrder : List NoticeSrc := [.alert, .mode, .wind, .miss, .drained, .quiet]

/-! ## Output pins -/

/-- The ALERT pin follows the level (R171). -/
def State.alertPin (s : State) : Bool := s.exc.alert

/-- FLn_DE of a line (Figure 6-2). -/
def State.flDe (s : State) (n : Nat) : Bool := (s.line n).driverEnable

/-- DNI_CS (Figure 7-4). -/
def State.dniCs (s : State) : Bool := s.weather.chipSelect

/-- The frame on PL_TXD, if one is being sent (R180). -/
def State.plTxd (s : State) : Option (List Byte) := s.link.tx.map TxFrame.bytes

/-! ## The laws of a run -/

/-- ALERT is asserted exactly while a flag is set whose kind is unmasked (R171). -/
def State.AlertLaw (s : State) : Prop :=
  s.exc.alert = true ↔ ∃ k : ExcKind, s.exc.flags.getLsbD k.code = true ∧ s.exc.masks.getLsbD k.code = false

/-- The reservations of a record. -/
def Helio.claims (h : Helio) : List Reservation := h.primary.toList ++ h.transfer.toList

/-- The sum over all records of the amounts they hold in a zone (R66). -/
def State.committedOf (s : State) (z : Nat) : Nat :=
  (s.helios.toList.map fun h => ((h.claims.filter (·.zone = z)).map (·.amount)).sum).sum

/-- The part of it held by LEAVING records (R66). -/
def State.leavingOf (s : State) (z : Nat) : Nat :=
  (s.helios.toList.map fun h => if h.st = .leaving then ((h.claims.filter (·.zone = z)).map (·.amount)).sum else 0).sum

/-- How many reservations name a slot (R58). -/
def State.usersOf (s : State) (k : Nat) : Nat :=
  (s.helios.toList.map fun h => (h.claims.filter (·.slot = k)).length).sum

/-- Which reservations a record holds in its state (R25), each naming a zone and a slot, of an amount in 0..91,749 (R71, R72). -/
def Helio.ReservationLaw (h : Helio) : Prop :=
  (match h.st with
   | .vacant | .idle | .clear => h.primary = none ∧ h.transfer = none
   | .approach | .onTarget => h.primary.isSome ∧ h.transfer = none
   | .retarget => ∃ p t, h.primary = some p ∧ h.transfer = some t ∧ p.zone ≠ t.zone
   | .leaving => ∃ p, h.primary = some p ∧ ∀ t, h.transfer = some t → p.zone ≠ t.zone)
  ∧ ∀ r ∈ h.claims, r.zone < Config.nZone ∧ r.slot < Config.nSlot ∧ r.amount ≤ 91749

/-- The reservation ledger: the zone sums and user counts agree with the reservations held (R25, R58, R66), with what bounds the
amounts: weights, irradiances and the fallback in their ranges. -/
structure State.LedgerLaw (s : State) : Prop where
  sums     : ∀ z < Config.nZone, (s.zone z).committed = s.committedOf z ∧ (s.zone z).leaving = s.leavingOf z
  users    : ∀ k < Config.nSlot, (s.entry k).users = s.usersOf k
  records  : ∀ h ∈ s.helios.toList, h.ReservationLaw ∧ h.weight ≤ 65535
  free     : ∀ k < Config.nSlot, (s.entry k).st = .free → (s.entry k).users = 0
  zoneOf   : ∀ k < Config.nSlot, (s.entry k).zone < Config.nZone
  dni      : s.weather.dni ≤ 1400 ∧ s.sweep.snapDni ≤ 1400 ∧ s.limits.fallback ≤ 1400

/-- No two ENABLED entries conflict (R54): their spans do not meet, or they serve different strategies. -/
def State.NoConflict (s : State) : Prop :=
  ∀ j k : Fin Config.nSlot, j ≠ k → (s.entries[j]).st = .enabled → (s.entries[k]).st = .enabled →
    (s.entries[j]).base + (s.entries[j]).size ≤ (s.entries[k]).base
    ∨ (s.entries[k]).base + (s.entries[k]).size ≤ (s.entries[j]).base
    ∨ ((s.entries[j]).shared = false ∧ (s.entries[k]).shared = false ∧ (s.entries[j]).strategy ≠ (s.entries[k]).strategy)

/-- No two occupied records share a line and an address (R37, R113). -/
def State.UniqueAddress (s : State) : Prop :=
  ∀ i j : Fin Config.nHelio, i ≠ j → (s.helios[i]).st ≠ .vacant → (s.helios[j]).st ≠ .vacant →
    ¬((s.helios[i]).line = (s.helios[j]).line ∧ (s.helios[i]).addr = (s.helios[j]).addr)

/-- What the field mode says of the engine, the passes and the lines (R1, R90, R91, R117, R152, R155, R157). -/
structure State.ModeLaw (s : State) : Prop where
  sun      : s.sup.mode = .tracking → s.sup.sunPresent = true
  stowPass : s.sup.stowPass.isSome → s.sup.mode = .stowing
  timer    : s.sweep.timer ≠ .stopped → s.sup.mode = .tracking
  waiting  : s.sweep.startWaiting = true → s.sup.mode = .tracking ∧ s.sweep.progress.isSome
  expired  : s.sweep.timer = .expired → s.sweep.startWaiting = true
  goesOn   : s.sup.mode = .tracking → s.sweep.timer.isRunning = true ∨ s.sweep.startWaiting = true
  snapshot : s.sweep.progress.isSome → s.sweep.snapSun.isSome
  quiet    : ∀ n : Fin Config.nLine, (s.lines[n]).quiet.isSome ↔ s.sup.mode = .quiet

/-- A target inside the travel of a class. -/
def Target.inTravel (c : DriveClass) (t : Target) : Prop :=
  (c.azMin ≤ t.az ∧ t.az ≤ c.azMax) ∧ (c.elMin ≤ t.el ∧ t.el ≤ c.elMax)

/-- Every commanded and pending target of an occupied record lies within its class's travel (R33), and every class's stow position
within its own (R30). -/
structure State.TravelLaw (s : State) : Prop where
  classes : ∀ c ∈ s.classes.toList, (stowTarget c).inTravel c
  records : ∀ h ∈ s.helios.toList, h.st ≠ .vacant →
    (∀ t, h.commanded = some t → t.inTravel (s.driveClass h.cls)) ∧ (∀ t, h.pendingT = some t → t.inTravel (s.driveClass h.cls))

/-- The limits lie in the ranges of Table 10-1, each resume limit below its stow limit (R135, R185). -/
structure LimitsLaw (l : Config.Limits) : Prop where
  sweepPeriod     : 1000 ≤ l.sweepPeriod ∧ l.sweepPeriod ≤ 60000
  sunValidity     : 10 ≤ l.sunValidity ∧ l.sunValidity ≤ 600
  minSunEl        : l.minSunEl ≤ 30000
  silenceTimeout  : 1 ≤ l.silenceTimeout ∧ l.silenceTimeout ≤ 60
  replyTimeout    : 1 ≤ l.replyTimeout ∧ l.replyTimeout ≤ 20
  lostLimit       : 1 ≤ l.lostLimit ∧ l.lostLimit ≤ 15
  watchInterval   : 5 ≤ l.watchInterval ∧ l.watchInterval ≤ 600
  quietInterval   : 100 ≤ l.quietInterval ∧ l.quietInterval ≤ 10000
  pulseDistance   : 1000 ≤ l.pulseDistance ∧ l.pulseDistance ≤ 10000000
  gustStow        : 1000 ≤ l.gustStow ∧ l.gustStow ≤ 80000
  sustainedStow   : 1000 ≤ l.sustainedStow ∧ l.sustainedStow ≤ 80000
  gustResume      : 1 ≤ l.gustResume ∧ l.gustResume < l.gustStow
  sustainedResume : 1 ≤ l.sustainedResume ∧ l.sustainedResume < l.sustainedStow
  resumeHold      : 60 ≤ l.resumeHold ∧ l.resumeHold ≤ 3600
  span            : 500 ≤ l.span ∧ l.span ≤ 3000
  decayStep       : 1 ≤ l.decayStep ∧ l.decayStep ≤ 200
  fallback        : l.fallback ≤ 1400

/-- The weather monitor's values lie in the ranges of Table 7-1. -/
structure WeatherLaw (w : Weather) : Prop where
  chain   : ∀ count ovf, w.chain = .timing count ovf → count ≤ 65535 ∧ ovf ≤ 63
  speeds  : w.speed ≤ 80000 ∧ w.gust ≤ 80000 ∧ w.sustained ≤ 80000
  ring    : w.ring.length ≤ 240 ∧ ∀ v ∈ w.ring, v ≤ 80000
  settle  : w.settle ≤ 14400 ∧ (w.wind = .settling → w.settle < 14400)
  dni     : w.dni ≤ 1400 ∧ ∀ r, w.reading = some r → r ≤ 1400

/-- Registers and queues stay in the ranges the tables give them: limits, weather, plant time, strategies, cursor, the receive queue
and the FULL list of four places each (R181), the records a READ_HELIOSTATS still has to read (R46), the saturating counts. -/
structure State.RangeLaw (s : State) : Prop where
  limits    : LimitsLaw s.limits
  weather   : WeatherLaw s.weather
  time      : s.sup.plantTime ≤ 86399999
  strategy  : s.sweep.active ≤ 15 ∧ s.sweep.snapStrategy ≤ 15 ∧ ∀ v, s.sweep.pendingStrategy = some v → v ≤ 15
  number    : s.sweep.number < 4294967296
  position  : ∀ i, s.sweep.progress = some i → i ≤ 2047
  cursor    : s.link.cursor ≤ 2048
  queue     : s.link.queue.length ≤ 4
  fullList  : s.link.fullList.length ≤ 4
  work      : ∀ r ∈ s.link.queue, ∀ first left entries, r.work = some (.read first left entries) →
    1 ≤ left ∧ first + entries.length + left ≤ 2048
  counts    : s.exc.count ≤ 65535 ∧ s.notices.missCount ≤ 65535 ∧ s.notices.quietCount ≤ 65535 ∧ s.notices.seq ≤ 255
  allowance : ∀ z ∈ s.zones.toList, z.active ≤ 16777215 ∧ ∀ v, z.pending = some v → v ≤ 16777215
  records   : ∀ h ∈ s.helios.toList, h.misses ≤ 15 ∧ h.lag ≤ 255 ∧ ∀ p, h.reported = some p → p.fault ≤ 4

/-! ## What one access does, as a relation between the state before and the state after -/

/-- u is w with holder i gone LEAVING: each amount it holds has entered the leaving sum of its zone (R81). -/
def State.Leaves (w u : State) (i : Nat) : Prop :=
  u.helio i = { w.helio i with st := .leaving, lag := 0 } ∧ (∀ j, j ≠ i → u.helio j = w.helio j)
  ∧ (∀ z < Config.nZone, u.zone z = { w.zone z with
      leaving := (w.zone z).leaving + (((w.helio i).claims.filter (·.zone = z)).map (·.amount)).sum })
  ∧ { u with helios := w.helios, zones := w.zones } = w

/-- v is u after the STANDBY offer that a visit makes to record i (R99, R100): nothing under a stale sun, and GEOMETRY raised with the
targets kept when the computation fails. -/
def State.StandbyOffered (u v : State) (i : Nat) : Prop :=
  ((∀ sun, u.sweep.snapSun = some sun → sun.flags.stale = true) → v = u)
  ∧ (∀ sun, u.sweep.snapSun = some sun → sun.flags.stale = false →
      (∀ t cosq, u.standbyFor sun i = .ok (t, cosq) → v = offer i t u)
      ∧ (∀ f, u.standbyFor sun i = .error f → v = raiseHelio .geometry i none none u))

/-- v is u after the offer that takes the beam of record i, sent LEAVING by a visit, off the receiver (R101): STANDBY, or DEFOCUS under
a stale sun and when the STANDBY computation fails, which raises GEOMETRY. -/
def State.OfferedOff (u v : State) (i : Nat) : Prop :=
  ((∀ sun, u.sweep.snapSun = some sun → sun.flags.stale = true) → v = offer i (defocusTarget (u.classOf i) (u.helio i)) u)
  ∧ (∀ sun, u.sweep.snapSun = some sun → sun.flags.stale = false →
      (∀ t cosq, u.standbyFor sun i = .ok (t, cosq) → v = offer i t u)
      ∧ (∀ f, u.standbyFor sun i = .error f →
          v = offer i (defocusTarget (u.classOf i) (u.helio i)) (raiseHelio .geometry i none none u)))

/-- v is w with holder i sent LEAVING by its visit, for any cause but its duty (R81, R101, R108). -/
def State.SentOff (w v : State) (i : Nat) : Prop := ∃ u : State, w.Leaves u i ∧ u.OfferedOff v i

/-- The refresh test of R76: the projected sum less the amount held plus the new contribution stays within the allowance. -/
def State.RefreshPasses (w : State) (held : Reservation) (need : Nat) : Prop :=
  ((w.zone held.zone).committed : Int) - (w.zone held.zone).leaving - held.amount + need ≤ (w.zone held.zone).active

/-- u is w after a refresh that passes, record i holding what h says: the committed sum follows the amount (R76). -/
def State.Refreshed (w u : State) (i : Nat) (h : Helio) (held : Reservation) (need : Nat) : Prop :=
  u.helio i = h ∧ (∀ j, j ≠ i → u.helio j = w.helio j)
  ∧ u.zone held.zone = { w.zone held.zone with committed := (w.zone held.zone).committed + need - held.amount }
  ∧ (∀ z, z ≠ held.zone → u.zone z = w.zone z) ∧ { u with helios := w.helios, zones := w.zones } = w

/-- v is w after the visit that keeps holder i on the aim its primary reservation names (R103, R106, R108). -/
def State.KeepsAim (w v : State) (sun : SnapSun) (i : Nat) (held : Reservation) : Prop :=
  (∀ f, w.receiverFor sun i held.slot = .error f →
      (raiseHelio f.kind i (some (w.entry held.slot).zone) (some held.slot) w).SentOff v i)
  ∧ (∀ t cosq need, w.receiverFor sun i held.slot = .ok (t, cosq) → need = contribution (w.helio i).weight cosq w.sweep.snapDni →
      (w.RefreshPasses held need → ∃ u : State, v = offer i t u
        ∧ w.Refreshed u i { w.helio i with primary := some { held with amount := need } } held need)
      ∧ (¬ w.RefreshPasses held need → (raiseHelio .flux i (some held.zone) (some held.slot) w).SentOff v i))

/-- u is w with one reservation less that names slot k: the user count falls, and the last user of a DRAINING entry frees it, puts it on
the drained list (once) and raises DRAINED (R58, R61, R62). -/
def State.SlotLeft (w u : State) (k : Nat) : Prop :=
  ((w.entry k).st = .draining ∧ (w.entry k).users ≤ 1 →
    u.entry k = { w.entry k with users := 0, st := .free }
    ∧ u.drained = (if k ∈ w.drained then w.drained else w.drained ++ [k]) ∧ u.notices = w.notices.raise .drained)
  ∧ (¬((w.entry k).st = .draining ∧ (w.entry k).users ≤ 1) →
    u.entry k = { w.entry k with users := (w.entry k).users - 1 } ∧ u.drained = w.drained ∧ u.notices = w.notices)
  ∧ (∀ m, m ≠ k → u.entry m = w.entry m)
  ∧ { u with entries := w.entries, drained := w.drained, notices := w.notices } = w

/-- u is w with reservation r released, no record being touched: the sums of its zone and the users of its slot fall (R83). -/
def State.Released (w u : State) (fromLeaving : Bool) (r : Reservation) : Prop :=
  ∃ m : State, m.SlotLeft u r.slot
    ∧ m.zone r.zone = { w.zone r.zone with
        committed := (w.zone r.zone).committed - r.amount
        leaving := if fromLeaving then (w.zone r.zone).leaving - r.amount else (w.zone r.zone).leaving }
    ∧ (∀ z, z ≠ r.zone → m.zone z = w.zone z) ∧ { m with zones := w.zones } = w

/-- u is w with every reservation of LEAVING record i released, the record being h then (R84, R85): the primary reservation first, then
the transfer (the order is the model's choice, log 33). -/
def State.AllReleased (w u : State) (i : Nat) (h : Helio) : Prop :=
  ∃ m : State,
    ((w.helio i).primary = none → m = w.setHelio i h)
    ∧ (∀ r, (w.helio i).primary = some r → (w.setHelio i h).Released m true r)
    ∧ ((w.helio i).transfer = none → u = m) ∧ (∀ r, (w.helio i).transfer = some r → m.Released u true r)

/-- u is v after a sweep start (R69, R93, R94): allowances and strategy applied, the sun evaluated, the snapshot taken, the timer loaded, and
the exceptions of a sun that has become stale or low. -/
def State.SweepStarted (v u : State) : Prop :=
  ∃ (sun : SnapSun) (before : SunFlags), sun = evalSun v.limits v.sup.sun v.sup.plantTime
    ∧ before = v.sup.lastSun.getD ⟨false, false⟩
    ∧ u.sweep = { timer := .running v.limits.sweepPeriod, progress := some 0, startWaiting := v.sweep.startWaiting
                  snapStrategy := v.sweep.pendingStrategy.getD v.sweep.active, snapSun := some sun, snapDni := v.weather.dni
                  number := (v.sweep.number + 1) % 4294967296
                  active := v.sweep.pendingStrategy.getD v.sweep.active, pendingStrategy := none }
    ∧ (∀ z < Config.nZone, u.zone z = { v.zone z with active := (v.zone z).pending.getD (v.zone z).active, pending := none })
    ∧ u.sup = { v.sup with
        lastSun := some sun.flags
        defocusPass := if sun.flags.stale && !before.stale then some 0 else v.sup.defocusPass }
    ∧ u.exc = (sunChanges before sun.flags v).exc ∧ u.notices = (sunChanges before sun.flags v).notices
    ∧ u.exc.flags = v.exc.flags ||| (if sun.flags.stale && !before.stale then ExcKind.staleSun.bit else 0#16)
        ||| (if sun.flags.low && !before.low then ExcKind.sunLow.bit else 0#16)
    ∧ { u with zones := v.zones, sweep := v.sweep, sup := v.sup, exc := v.exc, notices := v.notices } = v

/-- Record i holds a reservation after that it did not hold before: its first, or a transfer (R73, R75). -/
def Helio.gains (before after : Helio) : Option Reservation :=
  if before.transfer = none ∧ after.transfer.isSome then after.transfer
  else if before.primary = none ∧ before.transfer = none then after.primary
  else none

/-- The static fields of a record (Table 2-1). -/
def Helio.static (h : Helio) : Nat × Nat × Nat × Point × Int × Int × Int × Nat × Nat × Duty :=
  (h.line, h.addr, h.cls, h.pivot, h.azCal, h.elCal, h.aimOff, h.standby, h.weight, h.duty)

end Sys2Proof.Machine
end

