-- ==== Sys2Proof/Certificates/Slice0/Obligations.lean ====
section
/-! DEFINITION. The statements for the provers, in the order of OBLIGATIONS.json. -/

section Statements

open Sys2Proof Sys2Proof.Machine

/-! ## The step, the resets and the plant link port -/

/-- A step takes the command at the front of the queue. -/
def Obligations.StepTakesFrontCommand : Prop :=
  ∀ (c : Instr) (rest : List Instr) (s : State),
    step { s with pending := c :: rest } = exec c { s with pending := rest }

/-- With no command waiting and no request being carried out access by access, a step is one microsecond: the timers count (the sample,
conversion and silence timers, each line's silence, quiet and reply timers, the capture chain, the ready timeout, the filter holds,
the receiver's gap), plant time and the sweep timer move by whole milliseconds, an expiry joins the queue exactly when its timer
reaches its end, and the tables, the exception unit and the notices are unchanged. A request that has work left takes its next
access instead. The microsecond step and the access on an idle step are the model's choices (logs 4, 6 and 7). -/
def Obligations.IdleStepIsOneMicrosecond : Prop :=
  ∀ s : State, s.pending = [] → s.inReset = false →
    (s.workLeft = none → ∃ t : State, step s = .next t
      ∧ (s.sup.usInMs < 999 → t.sup.usInMs = s.sup.usInMs + 1 ∧ t.sup.plantTime = s.sup.plantTime ∧ t.sweep = s.sweep)
      ∧ (999 ≤ s.sup.usInMs → t.sup.usInMs = 0 ∧ t.sup.plantTime = min 86399999 (s.sup.plantTime + 1)
          ∧ t.sweep = { s.sweep with timer := match s.sweep.timer with
              | .running ms => .running (ms - 1)
              | .stopped => .stopped
              | .expired => .expired })
      ∧ t.sup = { s.sup with silence := s.sup.silence - 1, usInMs := t.sup.usInMs, plantTime := t.sup.plantTime }
      ∧ (∀ n < Config.nLine, t.line n = { s.line n with
          silence := (s.line n).silence.map (· - 1), quiet := (s.line n).quiet.map (· - 1)
          poll := (s.line n).poll.map fun p => match p.phase with
            | .awaiting us => { p with phase := .awaiting (us - 1) }
            | .sending | .receiving => p })
      ∧ t.weather = { s.weather with
          sampleLeft := s.weather.sampleLeft - 1, convLeft := s.weather.convLeft - 1
          chain := match s.weather.chain with
            | .timing count ovf => .timing (min 65535 (count + 1)) ovf
            | .idle => .idle
          conv := match s.weather.conv with
            | .converting us => .converting (us - 1)
            | .waiting => .waiting
            | .reading => .reading
          stowIn := { s.weather.stowIn with hold := s.weather.stowIn.hold.map (· - 1) }
          permitIn := { s.weather.permitIn with hold := s.weather.permitIn.hold.map (· - 1) } }
      ∧ t.link = { s.link with rx := match s.link.rx with
          | .receiving bytes gap => .receiving bytes (gap + 1)
          | .hunting => .hunting }
      ∧ (.silenceExpiry ∈ t.pending ↔ s.sup.silence = 1)
      ∧ (.windSample ∈ t.pending ↔ s.weather.sampleLeft = 1)
      ∧ (.conversionStart ∈ t.pending ↔ s.weather.convLeft = 1)
      ∧ (.dniReadyTimeout ∈ t.pending ↔ s.weather.conv = .converting 1)
      ∧ (.captureWrap ∈ t.pending ↔ ∃ count ovf, s.weather.chain = .timing count ovf ∧ 65535 ≤ count)
      ∧ (.lineFilterExpiry .stow ∈ t.pending ↔ s.weather.stowIn.hold = some 1)
      ∧ (.lineFilterExpiry .permit ∈ t.pending ↔ s.weather.permitIn.hold = some 1)
      ∧ (.plantFrameGapTimeout ∈ t.pending ↔ ∃ bytes, s.link.rx = .receiving bytes 1000)
      ∧ (.sweepTimerExpiry ∈ t.pending ↔ 999 ≤ s.sup.usInMs ∧ s.sweep.timer = .running 1)
      ∧ (.plantTimeWrap ∈ t.pending ↔ 999 ≤ s.sup.usInMs ∧ s.sup.plantTime = 86399999)
      ∧ (∀ n : Fin Config.nLine, (.lineSilenceExpiry n ∈ t.pending ↔ (s.line n).silence = some 1)
          ∧ (.quietTimerExpiry n ∈ t.pending ↔ (s.line n).quiet = some 1)
          ∧ (.replyTimeout n ∈ t.pending ↔ ∃ p, (s.line n).poll = some p ∧ p.phase = .awaiting 1))
      ∧ t.helios = s.helios ∧ t.classes = s.classes ∧ t.standbys = s.standbys ∧ t.entries = s.entries
      ∧ t.drained = s.drained ∧ t.zones = s.zones ∧ t.limits = s.limits ∧ t.exc = s.exc ∧ t.notices = s.notices
      ∧ t.inReset = false)
    ∧ (∀ r w, s.nextRequest = some r → r.work = some w → step s = .next (arbiter (serveAccess r (serveWork w s))))

/-- Every command of every form answers a next state, and none touches the queue of waiting commands. That a command out of its time
answers next, that COLD_RESET keeps the queue, and that nothing stops the part are the model's (logs 1, 25 and 31). -/
def Obligations.EveryCommandAnswersNext : Prop :=
  ∀ (c : Instr) (s : State), ∃ t : State, exec c s = .next t ∧ t.pending = s.pending

/-- COLD_RESET puts every block at its cold-reset values, from any state; the pin levels and the queue of waiting commands stay
(log 20, log 25). While the RESET line is asserted only COLD_RESET, COLD_RESET_END and a pin change act, and a pin change moves only
the pin's level (the model's reading, log 30). COLD_RESET_END releases the line: an input asserted then starts its 10 ms; outside a
reset it leaves the state as it is (the model's choice, log 1). -/
def Obligations.ColdResetValues : Prop :=
  ∀ s : State,
    (∃ t : State, exec .coldReset s = .next t
      ∧ (∀ h ∈ t.helios.toList, h.st = .vacant ∧ h.static = (0, 0, 0, ⟨0, 0, 0⟩, 0, 0, 0, 0, 0, .operate)
          ∧ (h.latched, h.lost, h.isLocal, h.faulted) = (false, false, false, false) ∧ h.misses = 0 ∧ h.lag = 0
          ∧ h.commanded = none ∧ h.pendingT = none ∧ h.lastRecv = none ∧ h.reported = none ∧ h.primary = none
          ∧ h.transfer = none ∧ h.lastExc = none)
      ∧ (∀ c ∈ t.classes.toList, c.valid = false ∧ (c.azGain, c.elGain, c.azRef, c.elRef) = (0, 0, 0, 0)
          ∧ (c.azMin, c.azMax, c.elMin, c.elMax) = (0, 0, 0, 0) ∧ c.round = .nearestEven
          ∧ (c.deadband, c.tolerance, c.clearDist) = (0, 0, 0) ∧ (c.defocus, c.stowAz, c.stowEl) = (0, 0, 0)
          ∧ (c.approachLimit, c.lagLimit) = (0, 0))
      ∧ (∀ p ∈ t.standbys.toList, p = ⟨0, 0, 600000⟩)
      ∧ (∀ e ∈ t.entries.toList, e.st = .free ∧ e.strategy = 0 ∧ e.shared = false ∧ e.base = 0 ∧ e.size = 1 ∧ e.aim = ⟨0, 0, 0⟩
          ∧ e.zone = 0 ∧ e.duties = 0#3 ∧ e.users = 0)
      ∧ t.drained = []
      ∧ (∀ z ∈ t.zones.toList, z.active = 0 ∧ z.pending = none ∧ z.committed = 0 ∧ z.leaving = 0)
      ∧ t.sweep.timer = .stopped ∧ t.sweep.progress = none ∧ t.sweep.startWaiting = false ∧ t.sweep.number = 0
      ∧ t.sweep.snapStrategy = 0 ∧ t.sweep.snapSun = none ∧ t.sweep.snapDni = 0
      ∧ t.sweep.active = 0 ∧ t.sweep.pendingStrategy = none
      ∧ (∀ l ∈ t.lines.toList, l.poll = none ∧ l.rr = none ∧ l.quiet = none ∧ l.silence = some 25000
          ∧ ∀ a ∈ l.carried.toList, a = none)
      ∧ t.weather.chain = .idle ∧ t.weather.speed = 0 ∧ t.weather.ring = [] ∧ t.weather.gust = 0 ∧ t.weather.sustained = 0
      ∧ t.weather.wind = .settling ∧ t.weather.settle = 0 ∧ t.weather.conv = .waiting ∧ t.weather.reading = none
      ∧ t.weather.sampleLeft = 250000 ∧ t.weather.convLeft = 250000
      ∧ t.weather.sensorFault = false ∧ t.weather.dni = 1000 ∧ t.dniCs = false
      ∧ t.weather.stowIn = { pin := s.weather.stowIn.pin, level := false, hold := none }
      ∧ t.weather.permitIn = { pin := s.weather.permitIn.pin, level := false, hold := none }
      ∧ t.sup.mode = .halted ∧ t.sup.grant = false ∧ t.permit = false ∧ t.sup.plantTime = 0 ∧ t.sup.timeSet = false
      ∧ t.sup.sunPresent = false ∧ t.sup.sun = ⟨0, 0, 0, 0, 0⟩ ∧ t.sup.lastSun = none ∧ t.sup.silence = 10000000
      ∧ t.sup.stowPass = none ∧ t.sup.defocusPass = none
      ∧ t.limits = { sweepPeriod := 4000, sunValidity := 120, minSunEl := 5000, silenceTimeout := 10, replyTimeout := 2, lostLimit := 4
                     watchInterval := 30, quietInterval := 1000, pulseDistance := 700000, gustStow := 15000
                     sustainedStow := 11000, gustResume := 10000, sustainedResume := 8000, resumeHold := 600, span := 1500
                     decayStep := 10, fallback := 1000 }
      ∧ t.exc.flags = 0#16 ∧ t.exc.masks = 0x42F8#16 ∧ t.exc.fault = none ∧ t.exc.count = 0 ∧ t.alertPin = false
      ∧ t.notices.pend = 0#6 ∧ t.notices.due = 0#6 ∧ t.notices.enable = 0x3F#6 ∧ t.notices.miss = none
      ∧ t.notices.missCount = 0 ∧ t.notices.quiet = none ∧ t.notices.quietCount = 0 ∧ t.notices.seq = 0
      ∧ t.link.rx = .hunting ∧ t.link.queue = [] ∧ t.link.fullList = [] ∧ t.link.ready = [] ∧ t.plTxd = none
      ∧ t.link.restarting = false ∧ t.link.cursor = 0 ∧ t.inReset = true ∧ t.pending = s.pending)
    ∧ (s.inReset = true → exec .coldResetEnd s = .next { s with
        weather := { s.weather with
          stowIn := { s.weather.stowIn with
            hold := if s.weather.stowIn.pin = s.weather.stowIn.level then none else some 10000 }
          permitIn := { s.weather.permitIn with
            hold := if s.weather.permitIn.pin = s.weather.permitIn.level then none else some 10000 } }
        inReset := false })
    ∧ (s.inReset = false → exec .coldResetEnd s = .next s)
    ∧ (s.inReset = true →
      (∀ c : Instr, c ≠ .coldReset → c ≠ .coldResetEnd → (∀ pin level, c ≠ .linePinChange pin level) → exec c s = .next s)
      ∧ (∀ level, exec (.linePinChange .stow level) s
          = .next { s with weather := { s.weather with stowIn := { s.weather.stowIn with pin := level } } })
      ∧ (∀ level, exec (.linePinChange .permit level) s
          = .next { s with weather := { s.weather with permitIn := { s.weather.permitIn with pin := level } } }))

/-- RESTART is answered OK and no further request is carried out; when the last byte of its reply has been sent, every block takes its
warm-reset values. -/
def Obligations.RestartLeadsToWarmReset : Prop :=
  (∀ (s : State) (r : Req), s.asks r 0x19#8 [] →
    ∃ u : State, exec .restart s = .next (arbiter u) ∧ u.nextRequest = none ∧ u.link.restarting = true
      ∧ u.link.ready = s.link.ready
          ++ [{ kind := 0x99#8, tag := r.tag, segments := [[0x00#8]], full := false, restart := true }]
      ∧ u.sansPort = s.sansPort ∧ u.notices = s.notices)
  ∧ (∀ (s : State) (f : TxFrame) (full : Bool), s.inReset = false → s.link.tx = some f → f.origin = .reply full true [] →
    ∃ t : State, exec .frameSent s = .next t
      ∧ (∀ i < Config.nHelio, (t.helio i).static = (s.helio i).static ∧ (t.helio i).st = (if (s.helio i).st = .vacant then .vacant else .idle)
          ∧ ((s.helio i).st ≠ .vacant → (t.helio i).latched = false ∧ (t.helio i).lost = false ∧ (t.helio i).isLocal = false
              ∧ (t.helio i).faulted = false ∧ (t.helio i).misses = 0 ∧ (t.helio i).lag = 0 ∧ (t.helio i).commanded = none
              ∧ (t.helio i).pendingT = none ∧ (t.helio i).lastRecv = none ∧ (t.helio i).reported = none
              ∧ (t.helio i).primary = none ∧ (t.helio i).transfer = none ∧ (t.helio i).lastExc = none))
      ∧ (∀ k < Config.nSlot, t.entry k = { s.entry k with
          users := 0, st := if (s.entry k).st = .draining then .free else (s.entry k).st })
      ∧ (∀ z < Config.nZone, t.zone z = ⟨(s.zone z).active, none, 0, 0⟩)
      ∧ t.classes = s.classes ∧ t.standbys = s.standbys ∧ t.limits = s.limits ∧ t.weather = s.weather ∧ t.drained = []
      ∧ t.sweep.active = s.sweep.active ∧ t.sweep.pendingStrategy = none ∧ t.sweep.timer = .stopped
      ∧ t.sweep.progress = none ∧ t.sweep.startWaiting = false ∧ t.sweep.number = 0 ∧ t.sweep.snapSun = none
      ∧ t.sweep.snapStrategy = 0 ∧ t.sweep.snapDni = 0
      ∧ (∀ n < Config.nLine, (t.line n).poll = none ∧ (t.line n).rr = none ∧ (t.line n).quiet = none
          ∧ (t.line n).silence = some 25000 ∧ ∀ a ∈ (t.line n).carried.toList, a = none)
      ∧ t.sup = { s.sup with
          mode := .halted, grant := false, silence := s.limits.silenceTimeout * 1000000, stowPass := none, defocusPass := none }
      ∧ t.exc = { flags := 0#16, masks := s.exc.masks, fault := none, count := 0, alert := false }
      ∧ t.notices = { pend := 0#6, enable := s.notices.enable, due := 0#6, miss := none, missCount := 0, quiet := none
                      quietCount := 0, seq := 0 }
      ∧ t.link = { rx := .hunting, queue := [], fullList := [], ready := [], tx := none, restarting := false, cursor := 0 }
      ∧ t.inReset = false ∧ t.pending = s.pending)

/-- When the last byte of a frame has been sent, the next segment of its reply begins with no other frame between, or its place in the
receive queue or the FULL list is given up and the arbiter chooses. -/
def Obligations.FrameSentGivesUpPlace : Prop :=
  ∀ (s : State) (f : TxFrame), s.inReset = false → s.link.tx = some f →
    (∀ full restart seg rest, f.origin = .reply full restart (seg :: rest) →
      exec .frameSent s = .next { s with link := { s.link with
        tx := some { f with payload := seg, origin := .reply full restart rest } } })
    ∧ (f.origin = .reply false false [] →
      exec .frameSent s = .next (arbiter { s with link := { s.link with tx := none, queue := s.link.queue.tail } }))
    ∧ (f.origin = .reply true false [] →
      exec .frameSent s = .next (arbiter { s with link := { s.link with tx := none, fullList := s.link.fullList.tail } }))
    ∧ (∀ src, f.origin = .notice src →
      exec .frameSent s = .next (arbiter { s with link := { s.link with tx := none } }))

/-- The arbiter leaves a busy transmitter alone; a free one takes the reply that has been ready longest, else the due notice that
stands first in the order ALERT, MODE, WIND, MISS, DRAINED, QUIET, whose due indication clears and whose tag is the sequence. -/
def Obligations.ArbiterSendsRepliesThenNotices : Prop :=
  ∀ s : State,
    (s.link.tx.isSome → arbiter s = s)
    ∧ (s.link.tx = none → ∀ r rest, s.link.ready = r :: rest →
        arbiter s = { s with link := { s.link with
          ready := rest
          tx := some { kind := r.kind, tag := r.tag, payload := r.segments.headD []
                       origin := .reply r.full r.restart r.segments.tail } } })
    ∧ (s.link.tx = none → s.link.ready = [] → ∀ before src after, noticeOrder = before ++ src :: after →
        (∀ b ∈ before, inSet s.notices.due b = false) → inSet s.notices.due src = true →
        ∃ t : State, arbiter s = t
          ∧ t.link = { s.link with tx := some { kind := src.kindByte, tag := BitVec.ofNat 8 s.notices.seq
                                                payload := s.noticePayload src, origin := .notice src } }
          ∧ t.notices = { s.notices with due := t.notices.due, seq := (s.notices.seq + 1) % 256 }
          ∧ (∀ other, inSet t.notices.due other = (inSet s.notices.due other && decide (other ≠ src)))
          ∧ t.sansPort = s.sansPort)
    ∧ (s.link.tx = none → s.link.ready = [] → s.notices.due = 0#6 → arbiter s = s)

/-- The bytes of a plant link frame, received one by one by a hunting receiver, do exactly what the whole frame does: kind, tag and
payload reach the receive queue bit for bit and the silence timer restarts. That the last byte takes the frame in its own step, as
PLANT_FRAME_RECEIVED does, is log 12 (DEDUCED). -/
def Obligations.FrameBytesAreOffered : Prop :=
  ∀ (kind tag : Byte) (payload : List Byte) (s : State),
    payload.length ≤ 250 → s.inReset = false → s.link.rx = .hunting → arbiter s = s →
    runCommands ((plantFrame kind tag payload).map .plantByteReceived) s
        = exec (.plantFrameReceived (plantFrameBody kind tag payload)) s
      ∧ exec (.plantFrameReceived (plantFrameBody kind tag payload)) s
        = .next (arbiter (offerFrame kind tag payload (restartSilence s)))

/-- A complete frame whose check does not match is discarded; one whose check matches restarts the silence timer and is queued,
answered FULL, or discarded, by the room there is; after a RESTART it is discarded. -/
def Obligations.WholeFrameReceived : Prop :=
  (∀ (span : List Byte) (b c : Byte) (s : State), s.inReset = false → s.link.rx.fits (span ++ [b, c]) = true →
    completeFrame (span ++ [b, c]) = true → [b, c] ≠ crcBytes span →
    exec (.plantFrameReceived (span ++ [b, c])) s = .next (arbiter { s with link := { s.link with rx := .hunting } }))
  ∧ (∀ (kind tag : Byte) (payload : List Byte) (s : State), payload.length ≤ 250 → s.inReset = false →
    s.link.rx.fits (plantFrameBody kind tag payload) = true →
    ∃ u : State, exec (.plantFrameReceived (plantFrameBody kind tag payload)) s = .next (arbiter u)
      ∧ u.sansPort = { s with sup := { s.sup with silence := s.limits.silenceTimeout * 1000000 } }.sansPort
      ∧ u.notices = s.notices
      ∧ u.link =
          if s.link.restarting then { s.link with rx := .hunting }
          else if s.link.queue.length < 4 then
            { s.link with rx := .hunting, queue := s.link.queue ++ [{ kind := kind, tag := tag, payload := payload, done := false }] }
          else if s.link.fullList.length < 4 then
            { s.link with
              rx := .hunting, fullList := s.link.fullList ++ [(kind, tag)]
              ready := s.link.ready ++ [{ kind := replyKind kind, tag := tag, segments := [[0x04#8]], full := true, restart := false }] }
          else { s.link with rx := .hunting })

/-- A partial frame is discarded by a gap over 1 ms, by a byte without its stop bit, and by a LEN outside 2..252; while hunting every
byte but 0xA5 is discarded, and 0xA5 begins a frame. A gap timeout or a framing error while hunting leaves the state as it is (the
model's choice, log 1). -/
def Obligations.PartialFrameDiscarded : Prop :=
  ∀ s : State, s.inReset = false →
    (∀ (bytes : List Byte) (gap : Nat), s.link.rx = .receiving bytes gap →
      exec .plantFrameGapTimeout s = .next (arbiter { s with link := { s.link with rx := .hunting } })
      ∧ exec .plantFramingError s = .next (arbiter { s with link := { s.link with rx := .hunting } }))
    ∧ (s.link.rx = .hunting → exec .plantFrameGapTimeout s = .next s ∧ exec .plantFramingError s = .next s
      ∧ ∀ b : Byte, exec (.plantByteReceived b) s
          = .next (arbiter (if b = 0xA5#8 then { s with link := { s.link with rx := .receiving [] 0 } } else s)))
    ∧ (∀ (b : Byte) (gap : Nat), s.link.rx = .receiving [] gap →
      exec (.plantByteReceived b) s = .next (arbiter { s with link := { s.link with
        rx := if b.toNat < 2 ∨ 252 < b.toNat then .hunting else .receiving [b] 0 } }))

/-- The port checks the kind first and then the length: a kind that names no request is answered UNKNOWN_KIND, a payload of the wrong
length BAD_LENGTH, each by the code alone, and neither changes anything else. The reply carries the request's tag and its
kind plus 0x80, or 0xFF for a kind of 0x80 or above. -/
def Obligations.KindThenLengthChecked : Prop :=
  (∀ (s : State) (r : Req), s.inReset = false → s.nextRequest = some r →
    (knownKind r.kind = false → exec .unknownKindRequest s = .next (s.answered r [[0x01#8]]))
    ∧ (∀ c kind lengthOk, requestRow c = some (kind, lengthOk) → r.kind = kind → lengthOk r.payload.length = false →
        exec c s = .next (s.answered r [[0x02#8]])))
  ∧ (∀ (k : Byte), knownKind k = true ↔ ∃ c lengthOk, requestRow c = some (k, lengthOk))
  ∧ (∀ (s : State) (r : Req) (before after : List Req) (segments : List (List Byte)), (∀ q ∈ before, q.done = true) → r.done = false →
      s.link.queue = before ++ r :: after →
      replyTo r segments false s = { s with link := { s.link with
        queue := before ++ { r with done := true } :: after
        ready := s.link.ready ++ [{ kind := if r.kind.toNat < 128 then r.kind + 0x80#8 else 0xFF#8, tag := r.tag
                                    segments := segments, full := false, restart := false }] } })


/-! ## Requests that set registers -/

/-- SET_TIME sets plant time and the time-set indicator and returns the time, or is refused with BAD_FIELD; LOAD_SUN stores the
record with the azimuth reduced and the elevation and rates clamped, or is refused with BAD_FIELD, then NO_TIME. -/
def Obligations.SetTimeAndLoadSun : Prop :=
  (∀ (s : State) (r : Req) (v : Nat), v < 4294967296 → s.asks r 0x01#8 (natBytes 4 v) →
    exec .setTime s = .next (
      if v ≤ 86399999 then
        { s with sup := { s.sup with plantTime := v, timeSet := true } }.answered r [0x00#8 :: natBytes 4 v]
      else s.answered r [[0x03#8]]))
  ∧ (∀ (s : State) (r : Req) (raw : SunRecord), raw.tRef < 4294967296 →
    (∀ v ∈ [raw.azRef, raw.elRef, raw.azRate, raw.elRate], -2147483648 ≤ v ∧ v ≤ 2147483647) →
    s.asks r 0x02#8 raw.bytes →
    ∃ stored : SunRecord,
      stored = { tRef := raw.tRef, azRef := raw.azRef % 360000000
                 elRef := max (-90000000) (min 90000000 raw.elRef)
                 azRate := max (-200000) (min 200000 raw.azRate), elRate := max (-200000) (min 200000 raw.elRate) }
      ∧ exec .loadSun s = .next (
          if 86399999 < raw.tRef then s.answered r [[0x03#8]]
          else if s.sup.timeSet = false then s.answered r [[0x30#8]]
          else { s with sup := { s.sup with sun := stored, sunPresent := true } }.answered r [0x00#8 :: stored.bytes]))

/-- SET_LIMITS: an unknown id refuses the whole request; otherwise each limit named takes its last value clamped into its range,
a resume limit clamped against its stow limit as stored at its own pair and, after the last pair, again to its stow limit minus 1;
the others stay, but for a resume limit that its stow limit now bounds; the values stored are returned pair by pair, and a changed
silence timeout restarts the silence timer; nothing else changes. -/
def Obligations.SetLimitsResult : Prop :=
  ∀ (s : State) (r : Req) (pairs : List (Nat × Nat)), 1 ≤ pairs.length → pairs.length ≤ 20 →
    (∀ p ∈ pairs, p.1 < 256 ∧ p.2 < 4294967296) → s.asks r 0x03#8 (limitsPayload pairs) →
    ((∃ p : Nat × Nat, p ∈ pairs ∧ (p.1 = 0 ∨ 0x11 < p.1)) → exec .setLimits s = .next (s.answered r [[0x03#8]]))
    ∧ ((∀ p ∈ pairs, 1 ≤ p.1 ∧ p.1 ≤ 0x11) →
        ∃ l : Config.Limits,
          exec .setLimits s = .next (
            { s with
              limits := l
              sup := if l.silenceTimeout = s.limits.silenceTimeout then s.sup
                else { s.sup with silence := l.silenceTimeout * 1000000 } }.answered r
              [0x00#8 :: pairs.flatMap fun p : Nat × Nat => byte1 p.1 ++ natBytes 4 (limitValue l p.1)])
          ∧ (∀ id lo hi, limitRange id = some (lo, hi) → (∀ p : Nat × Nat, p ∈ pairs → p.1 ≠ id) → limitValue l id = limitValue s.limits id)
          ∧ (∀ id lo hi before v after, limitRange id = some (lo, hi) → pairs = before ++ (id, v) :: after →
              (∀ p : Nat × Nat, p ∈ after → p.1 ≠ id) → limitValue l id = max lo (min hi v))
          ∧ (∀ resume stow : Nat, (resume, stow) = (0x0C, 0x0A) ∨ (resume, stow) = (0x0D, 0x0B) → 2 ≤ limitValue l stow →
              ((∀ p : Nat × Nat, p ∈ pairs → p.1 ≠ resume) →
                limitValue l resume = max 1 (min (limitValue l stow - 1) (limitValue s.limits resume)))
              ∧ (∀ before v after, pairs = before ++ (resume, v) :: after →
                (∀ p : Nat × Nat, p ∈ after → p.1 ≠ resume ∧ p.1 ≠ stow) →
                limitValue l resume = max 1 (min (limitValue l stow - 1) v))
              ∧ (∀ before v after stowThen, pairs = before ++ (resume, v) :: after → (∀ p : Nat × Nat, p ∈ after → p.1 ≠ resume) →
                ((∀ p : Nat × Nat, p ∈ before → p.1 ≠ stow) ∧ stowThen = limitValue s.limits stow
                  ∨ ∃ earlier w later, before = earlier ++ (stow, w) :: later ∧ (∀ p : Nat × Nat, p ∈ later → p.1 ≠ stow)
                      ∧ stowThen = max 1000 (min 80000 w)) →
                limitValue l resume = min (limitValue l stow - 1) (max 1 (min (stowThen - 1) v)))))

/-- SET_MASKS replaces the sixteen masks, CLEAR_FLAGS clears the flags, the fault record and the count and keeps the masks; ALERT is
evaluated anew, and its change to asserted raises the ALERT source; no record is latched or released. SET_NOTICES replaces the
enables: a source now disabled loses its due indication, one newly enabled gains it when it is pending, and pending flags stay; a set
with a bit outside the six is refused. -/
def Obligations.MasksFlagsAndEnables : Prop :=
  (∀ (s : State) (r : Req) (m : Nat), m < 65536 → s.asks r 0x04#8 (natBytes 2 m) →
    ∃ u : State, exec .setMasks s = .next (u.answered r [0x00#8 :: (natBytes 2 m ++ boolByte u.exc.alert)])
      ∧ u.exc = { s.exc with masks := BitVec.ofNat 16 m, alert := u.exc.alert } ∧ u.AlertLaw
      ∧ u.notices = (if u.exc.alert && !s.exc.alert then s.notices.raise .alert else s.notices)
      ∧ u.sansPort = { s with exc := u.exc }.sansPort ∧ u.link = s.link)
  ∧ (∀ (s : State) (r : Req), s.asks r 0x28#8 [] →
    exec .clearFlags s = .next ({ s with exc :=
      { flags := 0#16, masks := s.exc.masks, fault := none, count := 0, alert := false } }.answered r [[0x00#8]]))
  ∧ (∀ (s : State) (r : Req) (v : Nat), v < 256 → s.asks r 0x29#8 (byte1 v) →
    (64 ≤ v → exec .setNotices s = .next (s.answered r [[0x03#8]]))
    ∧ (v < 64 → ∃ n : Notices,
        exec .setNotices s = .next ({ s with notices := n }.answered r [[0x00#8, BitVec.ofNat 8 v, BitVec.ofNat 8 s.notices.pend.toNat]])
        ∧ n = { s.notices with enable := BitVec.ofNat 6 v, due := n.due }
        ∧ ∀ src, inSet n.due src = (inSet n.enable src
            && (inSet s.notices.due src || (inSet s.notices.pend src && !inSet s.notices.enable src)))))

/-- SET_STANDBY replaces one standby point, SET_CURSOR the cursor, SELECT_STRATEGY the pending strategy; each returns what it stored
and is refused with BAD_FIELD outside its range. -/
def Obligations.StandbyCursorAndStrategy : Prop :=
  (∀ (s : State) (r : Req) (n : Nat) (p : Point), n < 256 →
    (∀ v ∈ [p.x, p.y, p.z], -2147483648 ≤ v ∧ v ≤ 2147483647) → s.asks r 0x0B#8 (standbyPayload n p) →
    exec .setStandby s = .next (
      if n ≤ 3 ∧ (-2000000 ≤ p.x ∧ p.x ≤ 2000000) ∧ (-2000000 ≤ p.y ∧ p.y ≤ 2000000) ∧ (0 ≤ p.z ∧ p.z ≤ 2000000) then
        { s with standbys := s.standbys.setIfInBounds n p }.answered r [0x00#8 :: standbyPayload n p]
      else s.answered r [[0x03#8]]))
  ∧ (∀ (s : State) (r : Req) (v : Nat), v < 65536 → s.asks r 0x21#8 (natBytes 2 v) →
    exec .setCursor s = .next (
      if v ≤ 2048 then { s with link := { s.link with cursor := v } }.answered r [0x00#8 :: natBytes 2 v]
      else s.answered r [[0x03#8]]))
  ∧ (∀ (s : State) (r : Req) (v : Nat), v < 256 → s.asks r 0x0F#8 (byte1 v) →
    exec .selectStrategy s = .next (
      if v ≤ 15 then
        { s with sweep := { s.sweep with pendingStrategy := some v } }.answered r
          [[0x00#8, BitVec.ofNat 8 s.sweep.active, BitVec.ofNat 8 v]]
      else s.answered r [[0x03#8]]))

/-! ## Requests on classes, records, the aim map and the zones -/

/-- LOAD_CLASS replaces the class, sets its valid flag and refits the targets of its occupied records, unless it is refused with
BAD_FIELD, then IN_USE; READ_CLASS returns the class as it stands. -/
def Obligations.ClassLoadAndRead : Prop :=
  (∀ (s : State) (r : Req) (n : Nat) (c : DriveClass), n < 256 →
    (∀ v ∈ [c.azGain, c.elGain, c.azRef], v < 4294967296) → -2147483648 ≤ c.elRef → c.elRef ≤ 2147483647 →
    (∀ v ∈ [c.azMin, c.azMax, c.elMin, c.elMax, c.defocus, c.stowAz, c.stowEl], -8388608 ≤ v ∧ v ≤ 8388607) →
    (∀ v ∈ [c.deadband, c.tolerance, c.clearDist], v < 65536) → c.approachLimit < 256 → c.lagLimit < 256 →
    s.asks r 0x05#8 (classPayload n c) →
    (7 < n ∨ c.inRanges = false → exec .loadClass s = .next (s.answered r [[0x03#8]]))
    ∧ (n ≤ 7 → c.inRanges = true →
        (∃ h ∈ s.helios.toList, h.occupied = true ∧ h.cls = n ∧ (h.primary.isSome ∨ h.transfer.isSome)) →
        exec .loadClass s = .next (s.answered r [[0x14#8]]))
    ∧ (n ≤ 7 → c.inRanges = true →
        (∀ h ∈ s.helios.toList, h.occupied = true → h.cls = n → h.primary = none ∧ h.transfer = none) →
        ∃ u : State, exec .loadClass s = .next ((stowTest u).answered r [[0x00#8]])
          ∧ u.driveClass n = { c with valid := true } ∧ (∀ m, m ≠ n → u.driveClass m = s.driveClass m)
          ∧ (∀ i < Config.nHelio, u.helio i =
              if (s.helio i).occupied = true ∧ (s.helio i).cls = n then
                { s.helio i with
                  commanded := (s.helio i).commanded.map fun t =>
                    ⟨t.kind, clampInt c.azMin c.azMax t.az, clampInt c.elMin c.elMax t.el⟩
                  pendingT := (s.helio i).pendingT.map fun t =>
                    if t.kind = .stow then ⟨.stow, c.stowAz, c.stowEl⟩
                    else ⟨t.kind, clampInt c.azMin c.azMax t.az, clampInt c.elMin c.elMax t.el⟩ }
              else s.helio i)
          ∧ { u with classes := s.classes, helios := s.helios } = s))
  ∧ (∀ (s : State) (r : Req) (n : Nat), n < 256 → s.asks r 0x2A#8 (byte1 n) →
    exec .readClass s = .next (s.answered r (
      if 7 < n then [[0x03#8]]
      else [0x00#8 :: (byte1 n ++ boolByte (s.driveClass n).valid ++ (s.driveClass n).bytes)])))

/-- A code that names no round mode, no duty, no span size, a shared flag other than 0 or 1, and a duty set with a bit outside its three
refuse LOAD_CLASS, LOAD_HELIOSTAT and LOAD_AIM with BAD_FIELD; a refusal changes nothing. -/
def Obligations.UndefinedCodesRefused : Prop :=
  ∀ (s : State) (r : Req) (payload : List Byte),
    (s.asks r 0x05#8 payload → payload.length = 47 → 3 < (payload.getD 29 0#8).toNat →
      exec .loadClass s = .next (s.answered r [[0x03#8]]))
    ∧ (s.asks r 0x06#8 payload → payload.length = 27 → 3 < (payload.getD 26 0#8).toNat →
      exec .loadHeliostat s = .next (s.answered r [[0x03#8]]))
    ∧ (s.asks r 0x0C#8 payload → payload.length = 20 →
      1 < (payload.getD 2 0#8).toNat ∨ 3 < (payload.getD 5 0#8).toNat ∨ 7 < (payload.getD 19 0#8).toNat →
      exec .loadAim s = .next (s.answered r [[0x03#8]]))

/-- LOAD_HELIOSTAT is refused at the first check that fails: BAD_FIELD, NO_CLASS, ADDRESS_TAKEN, RESERVED; a refusal changes
nothing. -/
def Obligations.LoadHeliostatChecks : Prop :=
  ∀ (s : State) (r : Req) (i : Nat) (f : Helio), i < 65536 → f.line < 256 → f.addr < 256 → f.cls < 256 → f.standby < 256 →
    f.weight < 65536 → (∀ v ∈ [f.pivot.x, f.pivot.y, f.pivot.z], -2147483648 ≤ v ∧ v ≤ 2147483647) →
    (∀ v ∈ [f.azCal, f.elCal, f.aimOff], -32768 ≤ v ∧ v ≤ 32767) → s.asks r 0x06#8 (helioPayload i f) →
    (2047 < i ∨ f.inRanges = false → exec .loadHeliostat s = .next (s.answered r [[0x03#8]]))
    ∧ (i ≤ 2047 → f.inRanges = true → (s.driveClass f.cls).valid = false →
        exec .loadHeliostat s = .next (s.answered r [[0x22#8]]))
    ∧ (i ≤ 2047 → f.inRanges = true → (s.driveClass f.cls).valid = true →
        (∃ j < Config.nHelio, j ≠ i ∧ (s.helio j).occupied = true ∧ (s.helio j).line = f.line ∧ (s.helio j).addr = f.addr) →
        exec .loadHeliostat s = .next (s.answered r [[0x23#8]]))
    ∧ (i ≤ 2047 → f.inRanges = true → (s.driveClass f.cls).valid = true →
        (∀ j < Config.nHelio, j ≠ i → (s.helio j).occupied = true → ¬((s.helio j).line = f.line ∧ (s.helio j).addr = f.addr)) →
        ((s.helio i).primary.isSome ∨ (s.helio i).transfer.isSome) →
        exec .loadHeliostat s = .next (s.answered r [[0x13#8]]))

/-- An accepted LOAD_HELIOSTAT writes the static fields; a record that was VACANT or changes line or address has its dynamic fields
cleared, its polls in flight stay in flight as void, the last carried targets of its old and new address are forgotten, and a line
whose ring was empty chooses a poll; another record keeps its dynamic fields, its targets refitted when the class changes, and the
lines; in STOWING, STOWED and QUIET the record leaves the access CLEAR with the class's STOW pending. REMOVE_HELIOSTAT makes an
occupied record without reservations VACANT, every field as after a cold reset, its polls in flight void; it is refused with
BAD_FIELD past 2047 and with RESERVED for a record that holds a reservation, and a VACANT record is accepted unchanged. The stow
test follows each, and nothing else changes. -/
def Obligations.LoadAndRemoveResult : Prop :=
  (∀ (s : State) (r : Req) (i : Nat) (f : Helio) (same : Prop), i ≤ 2047 → f.addr < 256 → f.weight < 65536 → f.inRanges = true →
    s.asks r 0x06#8 (helioPayload i f) → (s.driveClass f.cls).valid = true →
    (∀ j < Config.nHelio, j ≠ i → (s.helio j).occupied = true → ¬((s.helio j).line = f.line ∧ (s.helio j).addr = f.addr)) →
    (s.helio i).primary = none → (s.helio i).transfer = none →
    same = ((s.helio i).occupied = true ∧ (s.helio i).line = f.line ∧ (s.helio i).addr = f.addr) →
    ∃ u : State,
      (same ∨ s.ring f.line ≠ [] → exec .loadHeliostat s = .next ((stowTest u).answered r [[0x00#8]]))
      ∧ (¬same → s.ring f.line = [] → exec .loadHeliostat s = .next ((stowTest (choosePoll f.line u)).answered r [[0x00#8]]))
      ∧ (u.helio i).static = f.static
      ∧ (∀ j, j ≠ i → u.helio j = s.helio j)
      ∧ (∀ kept : Helio,
          (same → kept = if (s.helio i).cls = f.cls then s.helio i else (s.helio i).refit (s.driveClass f.cls)) →
          (¬same → kept = { st := .idle }) →
          (s.sup.mode = .halted ∨ s.sup.mode = .tracking → u.helio i = kept.withStatic f)
          ∧ (s.sup.mode = .stowing ∨ s.sup.mode = .stowed ∨ s.sup.mode = .quiet →
              u.helio i = { kept.withStatic f with
                st := .clear, lag := if kept.st = .clear then kept.lag else 0
                pendingT := some (stowTarget (s.driveClass f.cls)) }))
      ∧ (same → u.lines = s.lines)
      ∧ (¬same → ∀ n < Config.nLine,
          u.line n = { s.line n with
            poll := (s.line n).poll.map fun p => if p.helio = i then { p with void := true } else p
            carried := (u.line n).carried }
          ∧ ∀ a < Config.nAddr, (u.line n).carried[a]?.getD none =
              if (n = f.line ∧ a = f.addr) ∨ ((s.helio i).occupied = true ∧ n = (s.helio i).line ∧ a = (s.helio i).addr) then none
              else (s.line n).carried[a]?.getD none)
      ∧ { u with helios := s.helios, lines := s.lines } = s)
  ∧ (∀ (s : State) (r : Req) (i : Nat), i < 65536 → s.asks r 0x07#8 (natBytes 2 i) →
    (2047 < i → exec .removeHeliostat s = .next (s.answered r [[0x03#8]]))
    ∧ (i ≤ 2047 → ((s.helio i).primary.isSome ∨ (s.helio i).transfer.isSome) →
        exec .removeHeliostat s = .next (s.answered r [[0x13#8]]))
    ∧ (i ≤ 2047 → (s.helio i).primary = none → (s.helio i).transfer = none → (s.helio i).st = .vacant →
        exec .removeHeliostat s = .next (s.answered r [[0x00#8]]))
    ∧ (i ≤ 2047 → (s.helio i).primary = none → (s.helio i).transfer = none → (s.helio i).st ≠ .vacant →
        ∃ u : State, exec .removeHeliostat s = .next ((stowTest u).answered r [[0x00#8]])
          ∧ u.helio i = {} ∧ (∀ j, j ≠ i → u.helio j = s.helio j)
          ∧ (∀ n < Config.nLine,
              u.line n = { s.line n with
                poll := (s.line n).poll.map fun p => if p.helio = i then { p with void := true } else p
                carried := (u.line n).carried }
              ∧ ∀ a < Config.nAddr, (u.line n).carried[a]?.getD none =
                  if n = (s.helio i).line ∧ a = (s.helio i).addr then none else (s.line n).carried[a]?.getD none)
          ∧ { u with helios := s.helios, lines := s.lines } = s))

/-- SET_DUTY replaces the duty of an occupied record and nothing else. RELEASE_HELIOSTAT clears LATCHED on one record and nothing else;
for 0xFFFF on every record, each as a separate access in index order, the reply coming with the last; with no other command between
them the 2,048 accesses clear every latch. The row's command stands for each access (the model's reading, log 7). -/
def Obligations.DutyAndReleaseResult : Prop :=
  (∀ (s : State) (r : Req) (i d : Nat), i < 65536 → d < 256 → s.asks r 0x08#8 (natBytes 2 i ++ byte1 d) →
    (2047 < i ∨ 3 < d → exec .setDuty s = .next (s.answered r [[0x03#8]]))
    ∧ (i ≤ 2047 → d ≤ 3 → (s.helio i).st = .vacant → exec .setDuty s = .next (s.answered r [[0x11#8]]))
    ∧ (∀ duty : Duty, i ≤ 2047 → d = duty.code → (s.helio i).st ≠ .vacant →
        exec .setDuty s = .next ((s.setHelio i { s.helio i with duty := duty }).answered r [[0x00#8]])))
  ∧ (∀ (s : State) (r : Req) (i : Nat), i < 65536 → s.asks r 0x09#8 (natBytes 2 i) →
    (r.work = none → 2047 < i → i ≠ 0xFFFF → exec .releaseHeliostat s = .next (s.answered r [[0x03#8]]))
    ∧ (r.work = none → i ≤ 2047 →
        exec .releaseHeliostat s = .next ((s.setHelio i { s.helio i with latched := false }).answered r [[0x00#8]]))
    ∧ (r.work = none → i = 0xFFFF → exec .releaseHeliostat s
        = .next (arbiter ((s.setHelio 0 { s.helio 0 with latched := false }).setWork (some (.release 1)))))
    ∧ (∀ j, r.work = some (.release j) →
        (j < 2047 → exec .releaseHeliostat s
          = .next (arbiter ((s.setHelio j { s.helio j with latched := false }).setWork (some (.release (j + 1))))))
        ∧ (j = 2047 → exec .releaseHeliostat s
          = .next (((s.setHelio j { s.helio j with latched := false }).setWork none).answered r [[0x00#8]])))
    ∧ (r.work = none → i = 0xFFFF → arbiter s = s → ∃ u : State,
        runCommands (List.replicate 2048 .releaseHeliostat) s = .next (u.answered r [[0x00#8]])
        ∧ (∀ j < Config.nHelio, u.helio j = { s.helio j with latched := false }) ∧ { u with helios := s.helios } = s))

/-- FORGET_HELIOSTAT releases every reservation of a LEAVING record, which becomes CLEAR and keeps every other field but the lag
count; any other record is refused with WRONG_STATE. The last release that a DRAINING entry waits for frees it, puts it on the drained
list and raises DRAINED; of two entries freed at once the primary's comes first (the model's choice, log 33). -/
def Obligations.ForgetHeliostatResult : Prop :=
  ∀ (s : State) (r : Req) (i : Nat), i < 65536 → s.asks r 0x0A#8 (natBytes 2 i) →
    (2047 < i → exec .forgetHeliostat s = .next (s.answered r [[0x03#8]]))
    ∧ (i ≤ 2047 → (s.helio i).st ≠ .leaving → exec .forgetHeliostat s = .next (s.answered r [[0x11#8]]))
    ∧ (i ≤ 2047 → (s.helio i).st = .leaving →
        ∃ u : State, exec .forgetHeliostat s = .next (u.answered r [[0x00#8]])
          ∧ u.helio i = { s.helio i with st := .clear, lag := 0, primary := none, transfer := none }
          ∧ (∀ j, j ≠ i → u.helio j = s.helio j)
          ∧ (∀ z < Config.nZone, u.zone z = { s.zone z with
              committed := (s.zone z).committed - (((s.helio i).claims.filter (·.zone = z)).map (·.amount)).sum
              leaving := (s.zone z).leaving - (((s.helio i).claims.filter (·.zone = z)).map (·.amount)).sum })
          ∧ (∀ k < Config.nSlot, (u.entry k).users = (s.entry k).users - ((s.helio i).claims.filter (·.slot = k)).length)
          ∧ (∀ k < Config.nSlot, (u.entry k).st ≠ (s.entry k).st → (s.entry k).st = .draining ∧ (u.entry k).st = .free
              ∧ (u.entry k).users = 0 ∧ k ∈ u.drained ∧ inSet u.notices.pend .drained = true)
          ∧ s.AllReleased u i { s.helio i with st := .clear, lag := 0, primary := none, transfer := none }
          ∧ u.sansPort = { s with helios := u.helios, zones := u.zones, entries := u.entries, drained := u.drained }.sansPort
          ∧ u.link = s.link)

/-- LOAD_AIM is refused at the first check that fails, BAD_FIELD, ALIGN, BUSY, OVERLAP with the lowest-numbered conflicting slot;
otherwise the slot holds the entry, ENABLED with no users, and the entry is returned. -/
def Obligations.LoadAimResult : Prop :=
  ∀ (s : State) (r : Req) (k : Nat) (e : AimEntry), k < 256 → e.strategy < 256 → e.base < 65536 → e.zone < 256 →
    (e.size = 1 ∨ e.size = 8 ∨ e.size = 64 ∨ e.size = 512) → e.st = .enabled → e.users = 0 →
    (∀ v ∈ [e.aim.x, e.aim.y, e.aim.z], -2147483648 ≤ v ∧ v ≤ 2147483647) → s.asks r 0x0C#8 (aimPayload k e) →
    exec .loadAim s = .next (
      if 63 < k ∨ e.inRanges = false then s.answered r [[0x03#8]]
      else if e.base % e.size ≠ 0 ∨ 2048 < e.base + e.size then s.answered r [[0x21#8]]
      else if (s.entry k).st ≠ .free then s.answered r [[0x12#8]]
      else match (List.range 64).find? (fun j => j != k && e.conflicts (s.entry j)) with
        | some j => s.answered r [[0x20#8, BitVec.ofNat 8 j]]
        | none => (s.setEntry k e).answered r [0x00#8 :: aimBytes k e])

/-- DISABLE_AIM makes an ENABLED entry FREE without users and DRAINING with users; WIDEN_AIM unites the duties permitted of an ENABLED
entry with the set carried; READ_AIM returns the entry as it stands. -/
def Obligations.DisableWidenReadAim : Prop :=
  (∀ (s : State) (r : Req) (k : Nat), k < 256 → s.asks r 0x0D#8 (byte1 k) →
    (63 < k → exec .disableAim s = .next (s.answered r [[0x03#8]]))
    ∧ (k ≤ 63 → ∃ e : AimEntry,
        e = { s.entry k with st :=
          if (s.entry k).st = .enabled then (if (s.entry k).users = 0 then .free else .draining) else (s.entry k).st }
        ∧ exec .disableAim s = .next ((s.setEntry k e).answered r [0x00#8 :: (byte1 e.st.code ++ natBytes 2 e.users)])))
  ∧ (∀ (s : State) (r : Req) (k d : Nat), k < 256 → d < 256 → s.asks r 0x0E#8 [BitVec.ofNat 8 k, BitVec.ofNat 8 d] →
    (63 < k ∨ 8 ≤ d → exec .widenAim s = .next (s.answered r [[0x03#8]]))
    ∧ (k ≤ 63 → d < 8 → (s.entry k).st ≠ .enabled → exec .widenAim s = .next (s.answered r [[0x11#8]]))
    ∧ (k ≤ 63 → d < 8 → (s.entry k).st = .enabled →
        exec .widenAim s = .next ((s.setEntry k { s.entry k with duties := (s.entry k).duties ||| BitVec.ofNat 3 d }).answered r
          [[0x00#8, BitVec.ofNat 8 ((s.entry k).duties ||| BitVec.ofNat 3 d).toNat]])))
  ∧ (∀ (s : State) (r : Req) (k : Nat), k < 256 → s.asks r 0x24#8 (byte1 k) →
    exec .readAim s = .next (s.answered r (if 63 < k then [[0x03#8]] else [0x00#8 :: aimBytes k (s.entry k)])))

/-- SET_ALLOWANCE writes the values, clamped to 16,777,215, as pending allowances of consecutive zones and returns them, and touches
no active allowance and no sum; it is refused with BAD_FIELD when the zones run past 127. -/
def Obligations.SetAllowanceResult : Prop :=
  ∀ (s : State) (r : Req) (z : Nat) (values : List Nat), z < 256 → 1 ≤ values.length → values.length ≤ 32 →
    (∀ v ∈ values, v < 4294967296) → s.asks r 0x10#8 (allowancePayload z values) →
    (127 < z ∨ 128 < z + values.length → exec .setAllowance s = .next (s.answered r [[0x03#8]]))
    ∧ (z ≤ 127 → z + values.length ≤ 128 →
        ∃ u : State, exec .setAllowance s = .next (u.answered r
            [0x00#8 :: (byte1 z ++ values.flatMap fun v => natBytes 3 (min 16777215 v))])
          ∧ (∀ j v, values[j]? = some v → u.zone (z + j) = { s.zone (z + j) with pending := some (min 16777215 v) })
          ∧ (∀ n, n < z ∨ z + values.length ≤ n → u.zone n = s.zone n)
          ∧ { u with zones := s.zones } = s)

/-! ## Mode and permit requests -/

/-- START from HALTED and RESUME from STOWING or STOWED, with their conditions met, make the mode TRACKING and start a sweep, or during
one set start waiting and change nothing else; no record is touched. QUIET from STOWED loads every line's quiet timer; WAKE from
QUIET stops them, makes the mode STOWED, or STOWING when the stow test fails, and each line then chooses a poll as PollChoice says, in
the new mode, a line with a poll in flight or in its silence gaining none (the order within WAKE is the model's choice, log 28).
Each is refused at the first condition that fails with nothing changed, and QUIET in QUIET and WAKE in STOWED are accepted with no
change. -/
def Obligations.StartResumeQuietWake : Prop :=
  (∀ (s : State) (r : Req), s.asks r 0x11#8 [] →
    (s.sup.mode ≠ .halted → exec .start s = .next (s.answered r [0x10#8 :: s.modeBytes]))
    ∧ (s.sup.mode = .halted → s.sup.sunPresent = false → exec .start s = .next (s.answered r [0x31#8 :: s.modeBytes]))
    ∧ (s.sup.mode = .halted → s.sup.sunPresent = true → ∃ v u : State,
        exec .start s = .next (u.answered r [0x00#8 :: u.modeBytes])
        ∧ v = { s with sup := { s.sup with mode := .tracking }, notices := s.notices.raise .mode }
        ∧ (∀ p, s.sweep.progress = some p → u = { v with sweep := { s.sweep with startWaiting := true } })
        ∧ (s.sweep.progress = none → v.SweepStarted u)))
  ∧ (∀ (s : State) (r : Req), s.asks r 0x16#8 [] →
    (s.sup.mode = .halted ∨ s.sup.mode = .tracking ∨ s.sup.mode = .quiet →
      exec .resume s = .next (s.answered r [0x10#8 :: s.modeBytes]))
    ∧ (s.sup.mode = .stowing ∨ s.sup.mode = .stowed →
        (s.sup.sunPresent = false → exec .resume s = .next (s.answered r [0x31#8 :: s.modeBytes]))
        ∧ (s.sup.sunPresent = true → s.weather.stowIn.level = true →
            exec .resume s = .next (s.answered r [0x41#8 :: s.modeBytes]))
        ∧ (s.sup.sunPresent = true → s.weather.stowIn.level = false → s.weather.wind ≠ .calm →
            exec .resume s = .next (s.answered r [0x40#8 :: s.modeBytes]))
        ∧ (s.sup.sunPresent = true → s.weather.stowIn.level = false → s.weather.wind = .calm → ∃ v u : State,
            exec .resume s = .next (u.answered r [0x00#8 :: u.modeBytes])
            ∧ v = { s with sup := { s.sup with mode := .tracking, stowPass := none }, notices := s.notices.raise .mode }
            ∧ (∀ p, s.sweep.progress = some p → u = { v with sweep := { s.sweep with startWaiting := true } })
            ∧ (s.sweep.progress = none → v.SweepStarted u))))
  ∧ (∀ (s : State) (r : Req), s.asks r 0x17#8 [] →
    (s.sup.mode = .halted ∨ s.sup.mode = .tracking ∨ s.sup.mode = .stowing →
      exec .quiet s = .next (s.answered r [0x10#8 :: s.modeBytes]))
    ∧ (s.sup.mode = .quiet → exec .quiet s = .next (s.answered r [0x00#8 :: s.modeBytes]))
    ∧ (s.sup.mode = .stowed → ∃ u : State, exec .quiet s = .next (u.answered r [0x00#8 :: u.modeBytes])
        ∧ u = { s with sup := { s.sup with mode := .quiet }, notices := s.notices.raise .mode, lines := u.lines }
        ∧ (∀ n < Config.nLine, u.line n = { s.line n with quiet := some (s.limits.quietInterval * 1000) })))
  ∧ (∀ (s : State) (r : Req), s.asks r 0x18#8 [] →
    (s.sup.mode = .halted ∨ s.sup.mode = .tracking ∨ s.sup.mode = .stowing →
      exec .wake s = .next (s.answered r [0x10#8 :: s.modeBytes]))
    ∧ (s.sup.mode = .stowed → exec .wake s = .next (s.answered r [0x00#8 :: s.modeBytes]))
    ∧ (s.sup.mode = .quiet → ∃ v u : State, exec .wake s = .next (u.answered r [0x00#8 :: u.modeBytes])
        ∧ v = { s with
            sup := { s.sup with mode := if s.stowHolds then .stowed else .stowing }
            notices := s.notices.raise .mode, lines := v.lines }
        ∧ (∀ n < Config.nLine, v.line n = { s.line n with quiet := none })
        ∧ u = { v with lines := u.lines }
        ∧ (∀ n < Config.nLine, u.line n = (choosePoll n v).line n
            ∧ ((s.line n).poll.isSome ∨ (s.line n).silence.isSome → u.line n = v.line n))))

/-- HALT is refused with WRONG_MODE in STOWING and QUIET and with RESERVED while any record holds a reservation, and accepted with no
change in HALTED; else its first access makes the mode HALTED, stopping the sweep timer, and each occupied record follows as a separate
access in index order: CLEAR becomes IDLE, a pending RECEIVER or STANDBY is dropped, DEFOCUS and STOW are kept. The reply comes with the
last access. With no other command between, the accesses take every occupied record. The row's command stands for each access (the
model's reading, log 7). -/
def Obligations.HaltResult : Prop :=
  ∀ (s : State) (r : Req), s.asks r 0x12#8 [] →
    (r.work = none → s.sup.mode = .stowing ∨ s.sup.mode = .quiet → exec .halt s = .next (s.answered r [0x10#8 :: s.modeBytes]))
    ∧ (r.work = none → s.sup.mode = .halted → exec .halt s = .next (s.answered r [0x00#8 :: s.modeBytes]))
    ∧ (r.work = none → s.sup.mode = .tracking ∨ s.sup.mode = .stowed →
        (∃ h ∈ s.helios.toList, h.primary.isSome ∨ h.transfer.isSome) →
        exec .halt s = .next (s.answered r [0x13#8 :: s.modeBytes]))
    ∧ (r.work = none → s.sup.mode = .tracking ∨ s.sup.mode = .stowed →
        (∀ h ∈ s.helios.toList, h.primary = none ∧ h.transfer = none) → ∃ u : State,
        u = { s with
          sup := { s.sup with mode := .halted }, notices := s.notices.raise .mode
          sweep := if s.sup.mode = .tracking then { s.sweep with timer := .stopped, startWaiting := false } else s.sweep }
        ∧ (s.nextOccupied 0 = none → exec .halt s = .next (u.answered r [0x00#8 :: u.modeBytes]))
        ∧ ((s.nextOccupied 0).isSome → exec .halt s = .next (arbiter (u.setWork (some (.halt 0)))))
        ∧ ∃ (m : Nat) (t : State), m ≤ 2049 ∧ runCommands (List.replicate m .halt) s = .next t
            ∧ (∀ i < Config.nHelio, (s.helio i).st = .vacant → t.helio i = s.helio i)
            ∧ (∀ i < Config.nHelio, (s.helio i).st ≠ .vacant → t.helio i = { s.helio i with
                st := if (s.helio i).st = .clear then .idle else (s.helio i).st
                lag := if (s.helio i).st = .clear then 0 else (s.helio i).lag
                pendingT := match (s.helio i).pendingT with
                  | some g => if g.kind = .defocus ∨ g.kind = .stow then some g else none
                  | none => none })
            ∧ t.link.queue = markDone s.link.queue ∧ t.sansPort = { u with helios := t.helios }.sansPort)
    ∧ (∀ i, r.work = some (.halt i) →
        (s.nextOccupied i = none → exec .halt s = .next ((s.setWork none).answered r [0x00#8 :: s.modeBytes]))
        ∧ (∀ k, s.nextOccupied i = some k → ∃ u : State,
            u = s.setHelio k { s.helio k with
              st := if (s.helio k).st = .clear then .idle else (s.helio k).st
              lag := if (s.helio k).st = .clear then 0 else (s.helio k).lag
              pendingT := match (s.helio k).pendingT with
                | some g => if g.kind = .defocus ∨ g.kind = .stow then some g else none
                | none => none }
            ∧ (s.nextOccupied (k + 1) = none → exec .halt s = .next ((u.setWork none).answered r [0x00#8 :: u.modeBytes]))
            ∧ ((s.nextOccupied (k + 1)).isSome → exec .halt s = .next (arbiter (u.setWork (some (.halt (k + 1))))))))

/-- GRANT_PERMIT sets and REVOKE_PERMIT clears the host grant in every mode; the permit is then in force exactly when grant, PERMIT line
and TRACKING hold; a change of it raises MODE; a drop by REVOKE_PERMIT starts the defocus pass and raises no exception. -/
def Obligations.GrantAndRevokePermit : Prop :=
  (∀ (s : State) (r : Req), s.asks r 0x13#8 [] →
    ∃ u : State, exec .grantPermit s = .next (u.answered r [0x00#8 :: u.modeBytes]) ∧ u.sup.grant = true
      ∧ (u.permit = true ↔ s.weather.permitIn.level = true ∧ s.sup.mode = .tracking)
      ∧ (s.permit = true → u = s)
      ∧ (s.permit = false → u.permit = true → u.notices = s.notices.raise .mode)
      ∧ (s.permit = false → u.permit = false → u.notices = s.notices)
      ∧ u.sansPort = { s with sup := { s.sup with grant := true } }.sansPort ∧ u.link = s.link)
  ∧ (∀ (s : State) (r : Req), s.asks r 0x14#8 [] →
    ∃ u : State, exec .revokePermit s = .next (u.answered r [0x00#8 :: u.modeBytes]) ∧ u.permit = false
      ∧ (s.permit = true → u.notices = s.notices.raise .mode ∧ u.sup = { s.sup with grant := false, defocusPass := some 0 })
      ∧ (s.permit = false → u.notices = s.notices ∧ u.sup = { s.sup with grant := false })
      ∧ u.sansPort = { s with sup := u.sup }.sansPort ∧ u.link = s.link)

/-- STOW moves the field from HALTED or TRACKING to STOWING, begins the stow pass, and stops the sweep timer; in the other modes it is
accepted with no change. It raises no exception and starts no defocus. -/
def Obligations.StowResult : Prop :=
  ∀ (s : State) (r : Req), s.asks r 0x15#8 [] →
    (s.sup.mode = .stowing ∨ s.sup.mode = .stowed ∨ s.sup.mode = .quiet →
      exec .stow s = .next (s.answered r [0x00#8 :: s.modeBytes]))
    ∧ (s.sup.mode = .halted ∨ s.sup.mode = .tracking →
        exec .stow s = .next (({ s with
          sup := { s.sup with mode := .stowing, stowPass := some 0 }
          sweep := if s.sup.mode = .tracking then { s.sweep with timer := .stopped, startWaiting := false } else s.sweep
          notices := s.notices.raise .mode } : State).answered r
            [[0x00#8, 0x02#8, BitVec.ofNat 8 (bitsOf [s.sup.grant, s.weather.permitIn.level, false, false])]]))

/-! ## Requests that read -/

/-- READ_STATUS, READ_FAULT, READ_MISS and READ_WEATHER return their content as it stands and clear exactly the sources they read:
MODE, DRAINED and QUIET with the QUIET information and the drained list; ALERT; MISS with its information; WIND. -/
def Obligations.ReadsReturnAndClear : Prop :=
  (∀ (s : State) (r : Req), s.asks r 0x20#8 [] → ∃ n : Notices,
    exec .readStatus s = .next ({ s with notices := n, drained := [] }.answered r [0x00#8 :: s.statusBytes])
    ∧ n = { s.notices with pend := n.pend, due := n.due, quiet := none, quietCount := 0 }
    ∧ (∀ src ∈ [NoticeSrc.mode, .drained, .quiet], inSet n.pend src = false ∧ inSet n.due src = false)
    ∧ (∀ src ∈ [NoticeSrc.alert, .wind, .miss], inSet n.pend src = inSet s.notices.pend src ∧ inSet n.due src = inSet s.notices.due src))
  ∧ (∀ (s : State) (r : Req), s.asks r 0x25#8 [] → ∃ n : Notices,
    exec .readFault s = .next ({ s with notices := n }.answered r [0x00#8 :: s.exc.readBytes])
    ∧ n = { s.notices with pend := n.pend, due := n.due } ∧ inSet n.pend .alert = false ∧ inSet n.due .alert = false
    ∧ (∀ src ∈ [NoticeSrc.mode, .wind, .miss, .drained, .quiet],
        inSet n.pend src = inSet s.notices.pend src ∧ inSet n.due src = inSet s.notices.due src))
  ∧ (∀ (s : State) (r : Req), s.asks r 0x26#8 [] → ∃ n : Notices,
    exec .readMiss s = .next ({ s with notices := n }.answered r [0x00#8 :: s.notices.missBytes])
    ∧ n = { s.notices with pend := n.pend, due := n.due, miss := none, missCount := 0 }
    ∧ inSet n.pend .miss = false ∧ inSet n.due .miss = false
    ∧ (∀ src ∈ [NoticeSrc.alert, .mode, .wind, .drained, .quiet],
        inSet n.pend src = inSet s.notices.pend src ∧ inSet n.due src = inSet s.notices.due src))
  ∧ (∀ (s : State) (r : Req), s.asks r 0x27#8 [] → ∃ n : Notices,
    exec .readWeather s = .next ({ s with notices := n }.answered r [0x00#8 :: s.weather.bytes])
    ∧ n = { s.notices with pend := n.pend, due := n.due } ∧ inSet n.pend .wind = false ∧ inSet n.due .wind = false
    ∧ (∀ src ∈ [NoticeSrc.alert, .mode, .miss, .drained, .quiet],
        inSet n.pend src = inSet s.notices.pend src ∧ inSet n.due src = inSet s.notices.due src))

/-- READ_HELIOSTATS returns the records from the cursor upward, as many as the smaller of n and 2048 minus the cursor, each segment
within 250 bytes, and advances the cursor by that many; each record is a separate access and is read as it stands then, the row's
command standing for each access (the model's reading, log 7). READ_ZONES returns up to 16 zones from the first at one moment and
changes nothing. Every segment opens with OK and its number, with bit 7 set in the last alone; a segment's entry count counts its own
entries and END stands in every segment (the model's reading, log 18). -/
def Obligations.SegmentedReads : Prop :=
  (∀ (s : State) (r : Req) (n : Nat), n < 256 → s.link.cursor ≤ 2048 → s.asks r 0x22#8 (byte1 n) →
    (r.work = none → n = 0 ∨ 8 < n → exec .readHeliostats s = .next (s.answered r [[0x03#8]]))
    ∧ (r.work = none → 1 ≤ n → n ≤ 8 → 2 ≤ min n (2048 - s.link.cursor) →
        exec .readHeliostats s = .next (arbiter (s.setWork (some (.read s.link.cursor (min n (2048 - s.link.cursor) - 1)
          [helioEntry s.link.cursor (s.helio s.link.cursor)])))))
    ∧ (∀ first left entries, r.work = some (.read first left entries) → 2 ≤ left →
        exec .readHeliostats s = .next (arbiter (s.setWork (some (.read first (left - 1)
          (entries ++ [helioEntry (first + entries.length) (s.helio (first + entries.length))]))))))
    ∧ (r.work = none → 1 ≤ n → n ≤ 8 → arbiter s = s → ∃ (m : Nat) (groups : List (List (List Byte))),
        m = min n (2048 - s.link.cursor)
        ∧ groups.flatten = (List.range m).map (fun j => helioEntry (s.link.cursor + j) (s.helio (s.link.cursor + j)))
        ∧ runCommands (List.replicate (max 1 m) .readHeliostats) s
          = .next ({ s with link := { s.link with cursor := s.link.cursor + m } }.answered r
            (if m = 0 then [[0x00#8, 0x80#8, 0x00#8, 0x01#8]]
             else groups.zipIdx.map fun g : List (List Byte) × Nat => [0x00#8, BitVec.ofNat 8 (g.2 + if g.2 + 1 = groups.length then 128 else 0)
               , BitVec.ofNat 8 g.1.length, if s.link.cursor + m = 2048 then 0x01#8 else 0x00#8] ++ g.1.flatten))
        ∧ (∀ g ∈ groups, 4 + g.flatten.length ≤ 250 ∧ (m ≠ 0 → g ≠ [])))
    ∧ (∀ first left entries, r.work = some (.read first left entries) → left = 1 →
        (∀ e ∈ entries, e.length ≤ 246) →
        ∃ groups : List (List (List Byte)),
        groups.flatten = entries ++ [helioEntry (first + entries.length) (s.helio (first + entries.length))]
        ∧ exec .readHeliostats s
          = .next (({ s with link := { s.link with cursor := first + entries.length + 1 } }.setWork none).answered r
            (groups.zipIdx.map fun g : List (List Byte) × Nat => [0x00#8, BitVec.ofNat 8 (g.2 + if g.2 + 1 = groups.length then 128 else 0)
               , BitVec.ofNat 8 g.1.length, if first + entries.length + 1 = 2048 then 0x01#8 else 0x00#8] ++ g.1.flatten))
        ∧ (∀ g ∈ groups, 4 + g.flatten.length ≤ 250 ∧ g ≠ [])))
  ∧ (∀ (s : State) (r : Req) (z n : Nat), z < 256 → n < 256 → s.asks r 0x23#8 [BitVec.ofNat 8 z, BitVec.ofNat 8 n] →
    (127 < z ∨ n = 0 ∨ 16 < n → exec .readZones s = .next (s.answered r [[0x03#8]]))
    ∧ (z ≤ 127 → 1 ≤ n → n ≤ 16 → ∃ groups : List (List (List Byte)),
        groups.flatten = (List.range (min n (128 - z))).map (fun j => zoneBytes (z + j) (s.zone (z + j)))
        ∧ exec .readZones s = .next (s.answered r (groups.zipIdx.map fun g : List (List Byte) × Nat =>
            [0x00#8, BitVec.ofNat 8 (g.2 + if g.2 + 1 = groups.length then 128 else 0), BitVec.ofNat 8 g.1.length] ++ g.1.flatten))
        ∧ (∀ g ∈ groups, 3 + g.flatten.length ≤ 250 ∧ g ≠ [])))

/-! ## Sweeps and visits -/

/-- SWEEP_TIMER_EXPIRY in TRACKING starts a sweep when none is in progress: pending allowances and the pending strategy become active,
the snapshot is taken, the number rises and the timer is loaded. During a sweep SWEEP_OVERRUN is raised and a start waits. A
timer that is not running does not expire. -/
def Obligations.SweepTimerExpiryResult : Prop :=
  ∀ s : State, s.inReset = false →
    (s.sweep.timer = .stopped ∨ s.sweep.timer = .expired → exec .sweepTimerExpiry s = .next s)
    ∧ (∀ ms, s.sup.mode = .tracking → s.sweep.timer = .running ms → s.sweep.progress = none →
        ∃ (u : State) (sun : SnapSun), exec .sweepTimerExpiry s = .next (arbiter u)
          ∧ sun = evalSun s.limits s.sup.sun s.sup.plantTime
          ∧ u.sweep = { timer := .running s.limits.sweepPeriod, progress := some 0, startWaiting := s.sweep.startWaiting
                        snapStrategy := s.sweep.pendingStrategy.getD s.sweep.active, snapSun := some sun
                        snapDni := s.weather.dni, number := (s.sweep.number + 1) % 4294967296
                        active := s.sweep.pendingStrategy.getD s.sweep.active, pendingStrategy := none }
          ∧ (∀ z < Config.nZone, u.zone z = { s.zone z with
              active := (s.zone z).pending.getD (s.zone z).active, pending := none })
          ∧ u.sup.lastSun = some sun.flags
          ∧ (u.sup.defocusPass = if sun.flags.stale && !(s.sup.lastSun.getD ⟨false, false⟩).stale then some 0
              else s.sup.defocusPass)
          ∧ (u.exc.flags = s.exc.flags
              ||| (if sun.flags.stale && !(s.sup.lastSun.getD ⟨false, false⟩).stale then ExcKind.staleSun.bit else 0#16)
              ||| (if sun.flags.low && !(s.sup.lastSun.getD ⟨false, false⟩).low then ExcKind.sunLow.bit else 0#16))
          ∧ u.sansPort = { s with zones := u.zones, sweep := u.sweep, exc := u.exc
                                  sup := { s.sup with lastSun := u.sup.lastSun, defocusPass := u.sup.defocusPass } }.sansPort
          ∧ u.link = s.link)
    ∧ (∀ ms p, s.sup.mode = .tracking → s.sweep.timer = .running ms → s.sweep.progress = some p →
        ∃ u : State, exec .sweepTimerExpiry s = .next (arbiter u)
          ∧ u.sweep = { s.sweep with timer := .expired, startWaiting := true }
          ∧ u.exc.flags = s.exc.flags ||| ExcKind.sweepOverrun.bit
          ∧ u.sansPort = { s with sweep := u.sweep, exc := u.exc }.sansPort ∧ u.link = s.link)

/-- The visit of an eligible CLEAR record, or of an IDLE one that becomes CLEAR: the first failure raises its kind and the record is
offered STANDBY; with none it becomes APPROACH with the reservation admitted, and the RECEIVER target is offered. -/
def Obligations.VisitOfClearRecord : Prop :=
  ∀ (s c : State) (i : Nat) (sun : SnapSun), s.inReset = false → s.visitTarget = some i →
    s.sup.mode = .tracking → s.permit = true → s.sweep.snapSun = some sun → sun.flags = ⟨false, false⟩ →
    (s.helio i).st = .idle ∨ (s.helio i).st = .clear →
    (s.helio i).lost = false → (s.helio i).isLocal = false → (s.helio i).latched = false → (s.helio i).faulted = false →
    (s.helio i).duty ≠ .outOfService →
    c = s.setHelio i { s.helio i with
      st := .clear, lag := if (s.helio i).st = .clear then (s.helio i).lag else 0 } →
    (s.lookup i s.sweep.snapStrategy (s.helio i).duty = .miss →
      exec .visit s = .next (arbiter (passIndex i (offerStandby i (raiseMiss i c)))))
    ∧ (∀ k, s.lookup i s.sweep.snapStrategy (s.helio i).duty = .denied k →
      exec .visit s = .next (arbiter (passIndex i (offerStandby i
        (raiseHelio .aimDenied i (some (s.entry k).zone) (some k) c)))))
    ∧ (∀ k, s.lookup i s.sweep.snapStrategy (s.helio i).duty = .found k →
        (∀ f, s.receiverFor sun i k = .error f →
          exec .visit s = .next (arbiter (passIndex i (offerStandby i
            (raiseHelio f.kind i (some (s.entry k).zone) (some k) c)))))
        ∧ (∀ t cosq z need, s.receiverFor sun i k = .ok (t, cosq) → z = (s.entry k).zone →
            need = contribution (s.helio i).weight cosq s.sweep.snapDni →
            ((s.zone z).active < (s.zone z).committed + need →
              exec .visit s = .next (arbiter (passIndex i (offerStandby i (raiseHelio .flux i (some z) (some k) c)))))
            ∧ ((s.zone z).committed + need ≤ (s.zone z).active → z < Config.nZone →
              ∃ u : State, exec .visit s = .next (arbiter (passIndex i (offer i t u)))
                ∧ u.helio i = { s.helio i with st := .approach, lag := 0, primary := some ⟨z, k, need⟩ }
                ∧ (∀ j, j ≠ i → u.helio j = s.helio j)
                ∧ u.zone z = { s.zone z with committed := (s.zone z).committed + need }
                ∧ (∀ y, y ≠ z → u.zone y = s.zone y)
                ∧ u.entry k = { s.entry k with users := (s.entry k).users + 1 }
                ∧ (∀ m, m ≠ k → u.entry m = s.entry m)
                ∧ { u with helios := s.helios, zones := s.zones, entries := s.entries } = s)))

/-- The visit of an eligible APPROACH or ON_TARGET holder whose lookup matches the slot it holds: the refresh reprices the
reservation when the projected sum less the amount held plus the new contribution stays within the allowance; else FLUX is
raised and the holder goes LEAVING with its amount frozen and added to the leaving sum. -/
def Obligations.VisitRefreshesHolder : Prop :=
  ∀ (s : State) (i : Nat) (sun : SnapSun) (held : Reservation) (t : Target) (cosq need : Nat), s.inReset = false →
    s.visitTarget = some i → s.sup.mode = .tracking → s.permit = true → s.sweep.snapSun = some sun →
    sun.flags = ⟨false, false⟩ → (s.helio i).st = .approach ∨ (s.helio i).st = .onTarget →
    (s.helio i).lost = false → (s.helio i).isLocal = false → (s.helio i).latched = false → (s.helio i).faulted = false →
    (s.helio i).duty ≠ .outOfService → (s.helio i).primary = some held → (s.helio i).transfer = none → held.zone < Config.nZone →
    s.lookup i s.sweep.snapStrategy (s.helio i).duty = .found held.slot → s.receiverFor sun i held.slot = .ok (t, cosq) →
    need = contribution (s.helio i).weight cosq s.sweep.snapDni →
    (((s.zone held.zone).committed : Int) - (s.zone held.zone).leaving - held.amount + need ≤ (s.zone held.zone).active →
      ∃ u : State, exec .visit s = .next (arbiter (passIndex i (offer i t u)))
        ∧ u.helio i = { s.helio i with primary := some { held with amount := need } }
        ∧ (∀ j, j ≠ i → u.helio j = s.helio j)
        ∧ u.zone held.zone = { s.zone held.zone with committed := (s.zone held.zone).committed + need - held.amount }
        ∧ (∀ y, y ≠ held.zone → u.zone y = s.zone y) ∧ { u with helios := s.helios, zones := s.zones } = s)
    ∧ (¬ ((s.zone held.zone).committed : Int) - (s.zone held.zone).leaving - held.amount + need ≤ (s.zone held.zone).active →
      ∃ u : State, exec .visit s = .next (arbiter (passIndex i (offerOff i u)))
        ∧ u.helio i = { s.helio i with
            st := .leaving, lag := 0, lastExc := some .flux, latched := !s.exc.masked .flux }
        ∧ (∀ j, j ≠ i → u.helio j = s.helio j)
        ∧ u.zone held.zone = { s.zone held.zone with leaving := (s.zone held.zone).leaving + held.amount }
        ∧ (∀ y, y ≠ held.zone → u.zone y = s.zone y)
        ∧ u.exc.flags = s.exc.flags ||| ExcKind.flux.bit
        ∧ u.sansPort = { s with helios := u.helios, zones := u.zones, exc := u.exc }.sansPort ∧ u.link = s.link)

/-- Visits that admit and refresh nothing. Outside TRACKING, or of a LOST or LOCAL record, the visit moves the sweep's position and
changes nothing else. In TRACKING an IDLE record becomes CLEAR first; then an OUT_OF_SERVICE record is offered STOW, unless it is
already at its class's STOW with nothing pending, and a holder goes LEAVING; a LEAVING, LATCHED or FAULTED record is offered STANDBY; a
record that is not eligible (no permit, a stale or a low sun) is offered STANDBY when it is CLEAR, and goes LEAVING with the offer of
R101 when it is a holder. -/
def Obligations.VisitWithoutAdmission : Prop :=
  ∀ (s c : State) (i : Nat), s.inReset = false → s.visitTarget = some i →
    c = (if (s.helio i).st = .idle then s.setHelio i { s.helio i with st := .clear, lag := 0 } else s) →
    (s.sup.mode ≠ .tracking ∨ (s.helio i).lost = true ∨ (s.helio i).isLocal = true →
      exec .visit s = .next (arbiter (passIndex i s)))
    ∧ (s.sup.mode = .tracking → (s.helio i).lost = false → (s.helio i).isLocal = false →
        ((s.helio i).duty = .outOfService → ∃ u : State,
          ((s.helio i).holder = true → c.Leaves u i) ∧ ((s.helio i).holder = false → u = c)
          ∧ exec .visit s = .next (arbiter (passIndex i (
              if (s.helio i).commanded = some (stowTarget (s.classOf i)) ∧ (s.helio i).pendingT = none then u
              else u.setHelio i { u.helio i with pendingT := some (stowTarget (s.classOf i)) }))))
        ∧ ((s.helio i).duty ≠ .outOfService →
            (s.helio i).st = .leaving ∨ (s.helio i).latched = true ∨ (s.helio i).faulted = true →
            ∃ v : State, exec .visit s = .next (arbiter (passIndex i v)) ∧ c.StandbyOffered v i)
        ∧ ((s.helio i).duty ≠ .outOfService → (s.helio i).st ≠ .leaving → (s.helio i).latched = false →
            (s.helio i).faulted = false →
            (s.permit = false ∨ ∀ sun, s.sweep.snapSun = some sun → sun.flags.stale = true ∨ sun.flags.low = true) →
            ∃ v : State, exec .visit s = .next (arbiter (passIndex i v))
              ∧ ((s.helio i).st = .idle ∨ (s.helio i).st = .clear → c.StandbyOffered v i)
              ∧ ((s.helio i).st = .approach ∨ (s.helio i).st = .onTarget ∨ (s.helio i).st = .retarget → s.SentOff v i)))

/-- The visit of an eligible holder. In APPROACH or ON_TARGET: a lookup that matches the slot held keeps the aim by a refresh; one that
matches another slot of the zone moves the reservation and the users there first and then refreshes it, the record becoming APPROACH;
one that matches a slot of another zone admits a transfer reservation there, the record becoming RETARGET with its primary frozen, or,
when that fails, raises FLUX and keeps the old aim when FLUX is masked and the old entry is ENABLED. In RETARGET a lookup that matches
the transfer's slot refreshes the transfer alone, and one that matches another slot sends the record off with no exception. Every
failure of lookup, computation or refresh raises its kind and sends the holder LEAVING with the offer of R101. -/
def Obligations.VisitMovesHolder : Prop :=
  ∀ (s : State) (i : Nat) (sun : SnapSun), s.inReset = false → s.visitTarget = some i →
    s.sup.mode = .tracking → s.permit = true → s.sweep.snapSun = some sun → sun.flags = ⟨false, false⟩ →
    (s.helio i).lost = false → (s.helio i).isLocal = false → (s.helio i).latched = false → (s.helio i).faulted = false →
    (s.helio i).duty ≠ .outOfService →
    (∀ held, (s.helio i).st = .approach ∨ (s.helio i).st = .onTarget → (s.helio i).primary = some held →
      (s.helio i).transfer = none → held.zone < Config.nZone →
      ∃ v : State, exec .visit s = .next (arbiter (passIndex i v))
        ∧ (s.lookup i s.sweep.snapStrategy (s.helio i).duty = .miss → (raiseMiss i s).SentOff v i)
        ∧ (∀ k, s.lookup i s.sweep.snapStrategy (s.helio i).duty = .denied k →
            (raiseHelio .aimDenied i (some (s.entry k).zone) (some k) s).SentOff v i)
        ∧ (s.lookup i s.sweep.snapStrategy (s.helio i).duty = .found held.slot → s.KeepsAim v sun i held)
        ∧ (∀ k, s.lookup i s.sweep.snapStrategy (s.helio i).duty = .found k → k ≠ held.slot →
            (∀ f, s.receiverFor sun i k = .error f →
              (raiseHelio f.kind i (some (s.entry k).zone) (some k) s).SentOff v i)
            ∧ (∀ t cosq need, s.receiverFor sun i k = .ok (t, cosq) →
                need = contribution (s.helio i).weight cosq s.sweep.snapDni →
                ((s.entry k).zone = held.zone → ∃ left m : State,
                  (s.setHelio i { s.helio i with primary := some { held with slot := k } }).SlotLeft left held.slot
                  ∧ m = left.setEntry k { s.entry k with users := (s.entry k).users + 1 }
                  ∧ (s.RefreshPasses held need → ∃ u : State, v = offer i t u ∧ m.Refreshed u i { s.helio i with
                      st := .approach, lag := if (s.helio i).st = .approach then (s.helio i).lag else 0
                      primary := some ⟨held.zone, k, need⟩ } held need)
                  ∧ (¬ s.RefreshPasses held need → (raiseHelio .flux i (some held.zone) (some k) m).SentOff v i))
                ∧ (∀ z, z = (s.entry k).zone → z ≠ held.zone →
                  ((s.zone z).committed + need ≤ (s.zone z).active → z < Config.nZone → ∃ u : State, v = offer i t u
                    ∧ u.helio i = { s.helio i with st := .retarget, lag := 0, transfer := some ⟨z, k, need⟩ }
                    ∧ (∀ j, j ≠ i → u.helio j = s.helio j)
                    ∧ u.zone z = { s.zone z with committed := (s.zone z).committed + need }
                    ∧ (∀ y, y ≠ z → u.zone y = s.zone y)
                    ∧ u.entry k = { s.entry k with users := (s.entry k).users + 1 } ∧ (∀ j, j ≠ k → u.entry j = s.entry j)
                    ∧ { u with helios := s.helios, zones := s.zones, entries := s.entries } = s)
                  ∧ ((s.zone z).active < (s.zone z).committed + need → ∀ w, w = raiseHelio .flux i (some z) (some k) s →
                      (s.exc.masked .flux = true ∧ (s.entry held.slot).st = .enabled → w.KeepsAim v sun i held)
                      ∧ (s.exc.masked .flux = false ∨ (s.entry held.slot).st ≠ .enabled → w.SentOff v i))))))
    ∧ (∀ old held, (s.helio i).st = .retarget → (s.helio i).primary = some old → (s.helio i).transfer = some held →
      held.zone < Config.nZone →
      ∃ v : State, exec .visit s = .next (arbiter (passIndex i v))
        ∧ (s.lookup i s.sweep.snapStrategy (s.helio i).duty = .miss → (raiseMiss i s).SentOff v i)
        ∧ (∀ k, s.lookup i s.sweep.snapStrategy (s.helio i).duty = .denied k →
            (raiseHelio .aimDenied i (some (s.entry k).zone) (some k) s).SentOff v i)
        ∧ (∀ k, s.lookup i s.sweep.snapStrategy (s.helio i).duty = .found k → k ≠ held.slot → s.SentOff v i)
        ∧ (s.lookup i s.sweep.snapStrategy (s.helio i).duty = .found held.slot →
            (∀ f, s.receiverFor sun i held.slot = .error f →
              (raiseHelio f.kind i (some (s.entry held.slot).zone) (some held.slot) s).SentOff v i)
            ∧ (∀ t cosq need, s.receiverFor sun i held.slot = .ok (t, cosq) →
                need = contribution (s.helio i).weight cosq s.sweep.snapDni →
                (s.RefreshPasses held need → ∃ u : State, v = offer i t u
                  ∧ s.Refreshed u i { s.helio i with transfer := some { held with amount := need } } held need)
                ∧ (¬ s.RefreshPasses held need → (raiseHelio .flux i (some held.zone) (some held.slot) s).SentOff v i))))

/-- VACANT_INDEX_PASSED moves the position past a VACANT index; past 2047 the sweep ends, and a waiting start begins the next one in
TRACKING. -/
def Obligations.VacantIndexPassedResult : Prop :=
  ∀ (s : State) (i : Nat), s.inReset = false → s.sweep.progress = some i → (s.helio i).st = .vacant →
    (i < 2047 → exec .vacantIndexPassed s = .next (arbiter { s with sweep := { s.sweep with progress := some (i + 1) } }))
    ∧ (i = 2047 → (s.sweep.startWaiting = false ∨ s.sup.mode ≠ .tracking) →
        exec .vacantIndexPassed s = .next (arbiter { s with sweep := { s.sweep with progress := none } }))
    ∧ (i = 2047 → s.sweep.startWaiting = true → s.sup.mode = .tracking →
        ∃ u : State, exec .vacantIndexPassed s = .next (arbiter u) ∧ u.sweep.progress = some 0 ∧ u.sweep.startWaiting = false
          ∧ u.sweep.timer = .running s.limits.sweepPeriod ∧ u.sweep.number = (s.sweep.number + 1) % 4294967296
          ∧ u.helios = s.helios ∧ u.entries = s.entries)

/-! ## Protective passes -/

/-- A stow pass step gives the next occupied record a pending STOW of its class, sends a holder LEAVING with its amounts added to the
leaving sums, makes an IDLE record CLEAR, and moves on; past the last record the pass ends with the stow test. A defocus pass step
takes the next occupied record: a holder goes LEAVING likewise and is offered the DEFOCUS formed from its counts, any other record is
passed unchanged. That a pass ends in the step of the last occupied record, and passes VACANT indices with no step of their own, is
the model's reading (log 11). -/
def Obligations.ProtectivePassSteps : Prop :=
  (∀ (s : State) (p : Nat), s.inReset = false → s.sup.stowPass = some p →
    (s.nextOccupied p = none →
      exec .stowPassStep s = .next (arbiter (stowTest { s with sup := { s.sup with stowPass := none } })))
    ∧ (∀ i, s.nextOccupied p = some i → ∃ u : State,
        exec .stowPassStep s = .next (arbiter (
          if (s.nextOccupied (i + 1)).isSome then { u with sup := { u.sup with stowPass := some (i + 1) } }
          else stowTest { u with sup := { u.sup with stowPass := none } }))
        ∧ u.helio i = { s.helio i with
            st := match (s.helio i).st with
              | .idle | .clear => .clear
              | .approach | .onTarget | .retarget | .leaving => .leaving
              | .vacant => .vacant
            lag := if (s.helio i).st = .clear ∨ (s.helio i).st = .leaving then (s.helio i).lag else 0
            pendingT := some (stowTarget (s.classOf i)) }
        ∧ (∀ j, j ≠ i → u.helio j = s.helio j)
        ∧ (∀ z < Config.nZone, u.zone z = { s.zone z with leaving := (s.zone z).leaving
            + if (s.helio i).holder then (((s.helio i).claims.filter (·.zone = z)).map (·.amount)).sum else 0 })
        ∧ { u with helios := s.helios, zones := s.zones } = s))
  ∧ (∀ (s : State) (p : Nat), s.inReset = false → s.sup.defocusPass = some p →
    (s.nextOccupied p = none →
      exec .defocusPassStep s = .next (arbiter { s with sup := { s.sup with defocusPass := none } }))
    ∧ (∀ i, s.nextOccupied p = some i → ∃ u : State,
        exec .defocusPassStep s = .next (arbiter { u with sup := { u.sup with
          defocusPass := if (s.nextOccupied (i + 1)).isSome then some (i + 1) else none } })
        ∧ ((s.helio i).holder = false → u = s)
        ∧ ((s.helio i).holder = true →
            u.helio i = { s.helio i with
              st := .leaving, lag := 0
              pendingT := match (s.helio i).pendingT with
                | some t => if t.kind = .stow then some t else some (defocusTarget (s.classOf i) (s.helio i))
                | none => some (defocusTarget (s.classOf i) (s.helio i)) }
            ∧ (∀ j, j ≠ i → u.helio j = s.helio j)
            ∧ (∀ z < Config.nZone, u.zone z = { s.zone z with leaving := (s.zone z).leaving
                + (((s.helio i).claims.filter (·.zone = z)).map (·.amount)).sum })
            ∧ { u with helios := s.helios, zones := s.zones } = s)))

/-- The posting rule: urgent targets always become pending on a record with none, a non-urgent one unless it lies within the deadband
of a commanded target of its kind; against a pending target STOW always replaces, DEFOCUS all but STOW, a non-urgent one
only a non-urgent one; with an urgent offer the order of two offers does not matter, STOW and then DEFOCUS prevailing, and of two
offers of one urgent kind the second stays. An offer reaches an occupied record by this rule with its class's deadband, and nothing
else, a poll in flight included. -/
def Obligations.PostingRule : Prop :=
  (∀ (deadband : Nat) (t : Target) (h : Helio), h.pendingT = none →
    h.post deadband t = { h with pendingT := (
      if t.kind = .defocus ∨ t.kind = .stow then some t
      else match h.commanded with
        | none => some t
        | some c => if c.kind = t.kind ∧ |c.az - t.az| < deadband ∧ |c.el - t.el| < deadband then none else some t) })
  ∧ (∀ (deadband : Nat) (t p : Target) (h : Helio), h.pendingT = some p →
    h.post deadband t = { h with pendingT := some (
      if t.kind = .stow ∨ (t.kind = .defocus ∧ p.kind ≠ .stow)
        ∨ ((t.kind = .receiver ∨ t.kind = .standby) ∧ (p.kind = .receiver ∨ p.kind = .standby)) then t else p) })
  ∧ (∀ (deadband : Nat) (t : Target) (h : Helio), deadband = 0 → h.pendingT = none → (h.post deadband t).pendingT = some t)
  ∧ (∀ (deadband : Nat) (a b : Target) (h : Helio), a.kind.urgent = true → a.kind ≠ b.kind →
      (h.post deadband a).post deadband b = (h.post deadband b).post deadband a
      ∧ (a.kind = .stow → ((h.post deadband a).post deadband b).pendingT = some a)
      ∧ (a.kind = .defocus → b.kind ≠ .stow → (∀ p, h.pendingT = some p → p.kind ≠ .stow) →
          ((h.post deadband a).post deadband b).pendingT = some a))
  ∧ (∀ (deadband : Nat) (a b : Target) (h : Helio), a.kind.urgent = true → a.kind = b.kind →
      (∀ p, h.pendingT = some p → p.kind ≠ .stow) → ((h.post deadband a).post deadband b).pendingT = some b)
  ∧ (∀ (s : State) (i : Nat) (t : Target),
      ((s.helio i).st ≠ .vacant → offer i t s = s.setHelio i ((s.helio i).post (s.classOf i).deadband t))
      ∧ ((s.helio i).st = .vacant → offer i t s = s))

/-! ## Field lines -/

/-- LINE_SILENCE_EXPIRY ends the silence and the line chooses; POLL_FRAME_SENT starts the reply timeout with the value the poll began
with; REPLY_SYNC_RECEIVED begins the reply. -/
def Obligations.PollPhases : Prop :=
  ∀ (s : State) (n : Fin Config.nLine), s.inReset = false →
    (∀ us, (s.line n).silence = some us →
      exec (.lineSilenceExpiry n) s = .next (arbiter (choosePoll n (s.setLine n { s.line n with silence := none }))))
    ∧ (∀ p, (s.line n).poll = some p → p.phase = .sending →
      exec (.pollFrameSent n) s = .next (arbiter (s.setLine n { s.line n with
        poll := some { p with phase := .awaiting (p.timeout * 1000) } })))
    ∧ (∀ p us, (s.line n).poll = some p → p.phase = .awaiting us →
      exec (.replySyncReceived n) s = .next (arbiter (s.setLine n { s.line n with
        poll := some { p with phase := .receiving } })))

/-- Outside QUIET a free line polls the lowest address awaiting urgent service and keeps its round-robin position, else the lowest
address above the position, else the lowest, and moves the position there; a MOVE's target becomes the address's last carried
target. A line that is not free, or whose ring is empty, does nothing. That the poll takes its watch interval at the choice is log 14
(DEDUCED). -/
def Obligations.PollChoice : Prop :=
  ∀ (s : State) (n : Fin Config.nLine), s.sup.mode ≠ .quiet →
    (((s.line n).poll.isSome ∨ (s.line n).silence.isSome ∨ s.ring n = []) → choosePoll n s = s)
    ∧ ((s.line n).poll = none → (s.line n).silence = none → s.ring n ≠ [] →
        ∃ a i rr, (a, i) ∈ s.ring n
          ∧ (∀ urgent : Nat × Nat → Bool,
              (∀ m ∈ s.ring n, urgent m = true ↔ ∃ t : Target, (s.helio m.2).pendingT = some t ∧ (t.kind = .defocus ∨ t.kind = .stow)
                ∧ (s.helio m.2).lost = false ∧ (s.helio m.2).isLocal = false
                ∧ ((s.line n).carried[m.1]?.getD none) ≠ some t) →
              ((∃ m ∈ s.ring n, urgent m = true) →
                urgent (a, i) = true ∧ rr = (s.line n).rr ∧ ∀ m ∈ s.ring n, urgent m = true → a ≤ m.1)
              ∧ ((∀ m ∈ s.ring n, urgent m = false) → rr = some a
                  ∧ ((∃ q, (s.line n).rr = some q ∧ q < a ∧ ∀ m ∈ s.ring n, q < m.1 → a ≤ m.1)
                    ∨ ((∀ q, (s.line n).rr = some q → ∀ m ∈ s.ring n, m.1 ≤ q) ∧ ∀ m ∈ s.ring n, a ≤ m.1))))
          ∧ ∃ move, move = (match (s.helio i).pendingT with
                | some t => if (s.helio i).isLocal = true ∨ (s.sup.mode = .halted ∧ t.kind ≠ .defocus ∧ t.kind ≠ .stow) then none
                            else some t
                | none => none)
            ∧ choosePoll n s = s.setLine n { s.line n with
                poll := some { helio := i, addr := a, move := move, void := false, watch := s.limits.watchInterval
                               timeout := s.limits.replyTimeout, phase := .sending }
                rr := rr
                carried := if move.isSome then (s.line n).carried.setIfInBounds a move else (s.line n).carried })

/-- A poll that ends as a miss by REPLY_TIMEOUT, REPLY_GAP_TIMEOUT or REPLY_FRAMING_ERROR: the miss count rises to at most 15 and nothing
else of the record changes, until the lost limit sets LOST: DRIVE_LOST is raised with the zone and slot of the primary reservation and
latches the record when it is unmasked, a holder goes LEAVING with its amounts added to the leaving sums, a record that holds a
reservation is offered the DEFOCUS of its current counts, and in QUIET the QUIET source is raised; a void poll counts for no record.
The line then chooses its next poll. -/
def Obligations.MissCountsAndLoses : Prop :=
  ∀ (c : Instr) (s : State) (n : Fin Config.nLine) (p : Poll) (i : Nat) (h : Helio), s.inReset = false → (s.line n).poll = some p →
    ((c = .replyTimeout n ∧ ∃ us, p.phase = .awaiting us) ∨ (c = .replyGapTimeout n ∧ p.phase = .receiving)
      ∨ (c = .replyFramingError n ∧ p.phase = .receiving)) →
    i = p.helio → h = s.helio i →
    (p.void = true → exec c s = .next (arbiter (endPoll n s)))
    ∧ (p.void = false → (h.lost = true ∨ min 15 (h.misses + 1) < s.limits.lostLimit) →
        exec c s = .next (arbiter (endPoll n (s.setHelio i { h with misses := min 15 (h.misses + 1) }))))
    ∧ (p.void = false → i < Config.nHelio → h.lost = false → s.limits.lostLimit ≤ min 15 (h.misses + 1) →
        ∃ u : State, exec c s = .next (arbiter (endPoll n (stowTest u)))
          ∧ u.helio i = { h with
              misses := min 15 (h.misses + 1), lost := true, lastExc := some .driveLost
              latched := h.latched || !s.exc.masked .driveLost
              st := if h.holder then .leaving else h.st, lag := if h.holder then 0 else h.lag
              pendingT := if h.reserved = true ∧ h.st ≠ .vacant then
                  (h.post (s.classOf i).deadband (defocusTarget (s.classOf i) h)).pendingT
                else h.pendingT }
          ∧ (∀ j, j ≠ i → u.helio j = s.helio j)
          ∧ (∀ z < Config.nZone, u.zone z = { s.zone z with leaving := (s.zone z).leaving
              + if h.holder then ((h.claims.filter (·.zone = z)).map (·.amount)).sum else 0 })
          ∧ u.exc = (raiseHelio .driveLost i (h.primary.map (·.zone)) (h.primary.map (·.slot)) s).exc
          ∧ u.exc.flags = s.exc.flags ||| ExcKind.driveLost.bit
          ∧ (∀ n' : Notices, n' = (raiseHelio .driveLost i (h.primary.map (·.zone)) (h.primary.map (·.slot)) s).notices →
              u.notices = if s.sup.mode = .quiet then n'.raiseQuiet i else n')
          ∧ u.sansPort = { s with helios := u.helios, zones := u.zones, exc := u.exc }.sansPort ∧ u.link = s.link)

/-- DRIVE_REPLY: a reply whose check or address does not match ends the poll as a miss; a reply to a void poll is taken by no
record. -/
def Obligations.DriveReplyClassified : Prop :=
  ∀ (s : State) (n : Fin Config.nLine) (p : Poll), s.inReset = false → (s.line n).poll = some p → p.phase = .receiving →
    (∀ (span : List Byte) (b c : Byte), span.length = 9 → [b, c] ≠ crcBytes span →
      exec (.driveReply n (span ++ [b, c])) s = exec (.replyGapTimeout n) s)
    ∧ (∀ (q : Reported) (addr : Nat) (loc acc : Bool), addr < 256 → addr ≠ p.addr →
      exec (.driveReply n (replyBytes q addr loc acc)) s = exec (.replyGapTimeout n) s)
    ∧ (∀ (q : Reported) (loc acc : Bool), p.addr < 256 → p.void = true →
      exec (.driveReply n (replyBytes q p.addr loc acc)) s = .next (arbiter (endPoll n s)))

/-- A valid reply to a poll that is not void. It clears the miss count and LOST and writes the reported position; an accepted MOVE
delivers its target, clamped to travel. Then arrival makes APPROACH ON_TARGET and, from RETARGET, releases the old reservation and
promotes the transfer; a LEAVING record confirmed away releases every reservation and becomes CLEAR; the lag count of APPROACH,
RETARGET and ON_TARGET follows; FAULTED and LOCAL follow the reply. A lag at its limit, a new fault or a new LOCAL takes the corrective
action: LAG, then DRIVE_FAULT are raised, a holder goes LEAVING, and a record that holds a reservation is offered DEFOCUS. In QUIET a
change of fault code, LOCAL or LOST raises the QUIET source. The stow test follows, and the line chooses its next poll. That an absent
fault code counts as 0 in the QUIET test is log 19 (DEDUCED), and that the away release takes the primary reservation first, so that its
slot stands before the transfer's in the drained list, is log 33 (DESIGN CHOICE). The reply is one that has begun to be received, with a
fault code in 0..4 and no flag bit beside the three. -/
def Obligations.ValidReplyResult : Prop :=
  ∀ (s : State) (n : Fin Config.nLine) (p : Poll) (q : Reported) (acc loc : Bool) (i : Nat) (h d : Helio) (cl : DriveClass),
    s.inReset = false → (s.line n).poll = some p → p.phase = .receiving → p.void = false → p.addr < 256 → p.helio < Config.nHelio →
    -8388608 ≤ q.az → q.az ≤ 8388607 → -8388608 ≤ q.el → q.el ≤ 8388607 → q.fault ≤ 4 →
    i = p.helio → h = s.helio i → cl = s.classOf i →
    d = { h with
      misses := 0, lost := false, reported := some q
      commanded := (match p.move with
        | some t => if acc then some (t.clampTo cl) else h.commanded
        | none => h.commanded)
      lastRecv := (match p.move with
        | some t => if acc = true ∧ t.kind = .receiver then some ((t.clampTo cl).az, (t.clampTo cl).el) else h.lastRecv
        | none => h.lastRecv)
      pendingT := (match p.move with
        | some t => if acc = true ∧ h.pendingT = some t then none else h.pendingT
        | none => h.pendingT) } →
    ∃ (arrived away settled late fault loc' : Bool) (lag : Nat) (a b w x : State),
      (settled = true ↔ ∃ t, d.commanded = some t ∧ q.settled = true ∧ |q.az - t.az| ≤ cl.tolerance ∧ |q.el - t.el| ≤ cl.tolerance)
      ∧ (arrived = true ↔ settled = true ∧ d.pendingT = none ∧ ∃ t, d.commanded = some t ∧ t.kind = .receiver)
      ∧ (away = true ↔ (∃ t, d.commanded = some t ∧ t.kind ≠ .receiver)
          ∧ (settled = true ∨ ∃ r, d.lastRecv = some r ∧ (cl.clearDist ≤ |q.az - r.1| ∨ cl.clearDist ≤ |q.el - r.2|)))
      -- arrival and away
      ∧ (h.st = .approach ∧ arrived = true → a = s.setHelio i { d with st := .onTarget, lag := 0 })
      ∧ (∀ old new, h.st = .retarget ∧ arrived = true → h.primary = some old → h.transfer = some new →
          (s.setHelio i { d with st := .onTarget, lag := 0, primary := some new, transfer := none }).Released a false old)
      ∧ (h.st = .leaving ∧ away = true →
          s.AllReleased a i { d with st := .clear, lag := 0, primary := none, transfer := none })
      ∧ (¬((h.st = .approach ∨ h.st = .retarget) ∧ arrived = true) → ¬(h.st = .leaving ∧ away = true) → a = s.setHelio i d)
      -- lag, fault and local
      ∧ b = a.setHelio i { a.helio i with lag := lag, faulted := decide (q.fault ≠ 0), isLocal := loc }
      ∧ ((h.st = .approach ∨ h.st = .retarget) ∧ arrived = false →
          lag = min 255 (h.lag + 1) ∧ late = decide (cl.approachLimit ≤ lag))
      ∧ ((h.st = .approach ∨ h.st = .retarget) ∧ arrived = true → lag = 0 ∧ late = false)
      ∧ (h.st = .onTarget → if settled then lag = 0 ∧ late = false
          else lag = min 255 (h.lag + 1) ∧ late = decide (cl.lagLimit ≤ lag))
      ∧ (h.st = .leaving ∧ away = true → lag = 0 ∧ late = false)
      ∧ (h.st = .vacant ∨ h.st = .idle ∨ h.st = .clear ∨ (h.st = .leaving ∧ away = false) → lag = h.lag ∧ late = false)
      ∧ fault = (decide (q.fault ≠ 0) && !h.faulted) ∧ loc' = (loc && !h.isLocal)
      -- the corrective action, and its reports with the zone and slot of the primary reservation
      ∧ (∀ z k, z = (b.helio i).primary.map (·.zone) → k = (b.helio i).primary.map (·.slot) →
          w = (if fault then raiseHelio .driveFault i z k else id) ((if late then raiseHelio .lag i z k else id) b))
      ∧ (late = false → fault = false → loc' = false → x = b)
      ∧ (late = true ∨ fault = true ∨ loc' = true → ∃ u : State,
          ((b.helio i).holder = true → w.Leaves u i) ∧ ((b.helio i).holder = false → u = w)
          ∧ x = if (b.helio i).reserved then offer i (defocusTarget cl d) u else u)
      -- the QUIET notice, the stow test and the next poll
      ∧ exec (.driveReply n (replyBytes q p.addr loc acc)) s = .next (arbiter (endPoll n (stowTest (
          if s.sup.mode = .quiet ∧ ((h.reported.map (·.fault)).getD 0 ≠ q.fault ∨ h.isLocal ≠ loc ∨ h.lost = true) then
            { x with notices := x.notices.raiseQuiet i }
          else x))))

/-- QUIET_TIMER_EXPIRY reloads the timer and starts one QUERY to the next address by round robin, and no MOVE; with an empty ring, or a
line that is not free, it only reloads. What a line that is not free does is the model's choice (log 21), and the watch interval is
taken at the choice (log 14, DEDUCED). -/
def Obligations.QuietTimerPollsByQuery : Prop :=
  ∀ (s : State) (n : Fin Config.nLine) (us : Nat), s.inReset = false → s.sup.mode = .quiet → (s.line n).quiet = some us →
    ((s.line n).poll.isSome ∨ (s.line n).silence.isSome ∨ s.ring n = [] →
      exec (.quietTimerExpiry n) s = .next (arbiter (s.setLine n { s.line n with
        quiet := some (s.limits.quietInterval * 1000) })))
    ∧ ((s.line n).poll = none → (s.line n).silence = none → s.ring n ≠ [] →
        ∃ a i, (a, i) ∈ s.ring n
          ∧ ((∃ q, (s.line n).rr = some q ∧ q < a ∧ ∀ m ∈ s.ring n, q < m.1 → a ≤ m.1)
            ∨ ((∀ q, (s.line n).rr = some q → ∀ m ∈ s.ring n, m.1 ≤ q) ∧ ∀ m ∈ s.ring n, a ≤ m.1))
          ∧ exec (.quietTimerExpiry n) s = .next (arbiter (s.setLine n { s.line n with
              quiet := some (s.limits.quietInterval * 1000), rr := some a
              poll := some { helio := i, addr := a, move := none, void := false, watch := s.limits.watchInterval
                             timeout := s.limits.replyTimeout, phase := .sending } })))

/-! ## Weather and the supervisor's timers -/

/-- ANEMO_EDGE by the table of R136, the speed of an accepted period being the smaller of 80,000 and the floor of pulse distance × 1,000
/ p; CAPTURE_WRAP counts a wrap, and the 64th makes the chain IDLE and the speed 0; on an IDLE chain it leaves the state as it is (the
model's choice, log 1). -/
def Obligations.AnemometerCapture : Prop :=
  ∀ s : State, s.inReset = false →
    (s.weather.chain = .idle →
      exec .anemoEdge s = .next (arbiter { s with weather := { s.weather with chain := .timing 0 0 } })
      ∧ exec .captureWrap s = .next s)
    ∧ (∀ count ovf, s.weather.chain = .timing count ovf →
        (ovf * 65536 + count < 1000 → exec .anemoEdge s = .next (arbiter s))
        ∧ (1000 ≤ ovf * 65536 + count → exec .anemoEdge s = .next (arbiter { s with weather := { s.weather with
            chain := .timing 0 0, speed := min 80000 (s.limits.pulseDistance * 1000 / (ovf * 65536 + count)) } }))
        ∧ (ovf < 63 → exec .captureWrap s = .next (arbiter { s with weather := { s.weather with chain := .timing 0 (ovf + 1) } }))
        ∧ (63 ≤ ovf → exec .captureWrap s = .next (arbiter { s with weather := { s.weather with chain := .idle, speed := 0 } })))

/-- WIND_SAMPLE appends the speed to a ring of at most 240, forms the gust over the newest 12 and the sustained speed over all, and moves
the wind state by the table of R140; a change raises WIND, an entry into WINDY raises WIND_STOW and moves the field to STOWING. -/
def Obligations.WindSampleResult : Prop :=
  ∀ s : State, s.inReset = false → s.weather.ring.length ≤ 240 →
    ∃ (ring : List Nat) (exceeding quiet : Bool) (next : Wind) (settle : Nat) (w : Weather),
      ring = (if s.weather.ring.length = 240 then s.weather.ring.tail else s.weather.ring) ++ [s.weather.speed]
      ∧ w.ring = ring ∧ w.sustained = ring.sum / ring.length
      ∧ w.gust = (ring.drop (ring.length - 12)).sum / min 12 ring.length
      ∧ exceeding = (decide (s.limits.gustStow ≤ w.gust) || decide (s.limits.sustainedStow ≤ w.sustained))
      ∧ quiet = (decide (w.gust < s.limits.gustResume) && decide (w.sustained < s.limits.sustainedResume))
      ∧ (next, settle) = (match s.weather.wind with
          | .calm => if exceeding then (.windy, 0) else if quiet then (.calm, s.weather.settle) else (.settling, 0)
          | .windy => if exceeding = false ∧ quiet = true then (.settling, 0) else (.windy, 0)
          | .settling => if exceeding then (.windy, 0) else if quiet = false then (.settling, 0)
              else if s.limits.resumeHold * 4 ≤ s.weather.settle + 1 then (.calm, s.weather.settle + 1)
              else (.settling, s.weather.settle + 1))
      ∧ w = { s.weather with ring := ring, gust := w.gust, sustained := w.sustained, wind := next, settle := settle
                             sampleLeft := 250000 }
      ∧ (next = s.weather.wind → exec .windSample s = .next (arbiter { s with weather := w }))
      ∧ (next ≠ s.weather.wind → next ≠ .windy →
          exec .windSample s = .next (arbiter { s with weather := w, notices := s.notices.raise .wind }))
      ∧ (next ≠ s.weather.wind → next = .windy → ∃ u : State, exec .windSample s = .next (arbiter u)
          ∧ u.weather = w ∧ inSet u.notices.pend .wind = true ∧ u.exc.flags = s.exc.flags ||| ExcKind.windStow.bit
          ∧ (s.sup.mode = .halted ∨ s.sup.mode = .tracking → u.sup = { s.sup with mode := .stowing, stowPass := some 0 })
          ∧ (s.sup.mode = .stowing ∨ s.sup.mode = .stowed ∨ s.sup.mode = .quiet → u.sup = s.sup)
          ∧ u.sansPort = { s with weather := w, exc := u.exc, sup := u.sup, sweep := u.sweep }.sansPort ∧ u.link = s.link)

/-- CONVERSION_START enters CONVERTING with 20 ms; DNI_READY enters READING; CONVERSION_COMPLETE with a code below 0xFFFF is a
reading of the floor of code × span / 65,535, at most 1,400, which clears the sensor fault; dni_used takes a reading at or above it and
else falls to it by at most the decay step. A cycle that ends by DNI_READY_TIMEOUT, or with the code 0xFFFF, is a sensor fault:
DNI_SENSOR is raised on entry alone, dni_used becomes at least the fallback, and the last reading stays. -/
def Obligations.ConversionCycle : Prop :=
  (∀ s : State, s.inReset = false →
    exec .conversionStart s = .next (arbiter { s with weather := { s.weather with conv := .converting 20000, convLeft := 250000 } })
    ∧ (∀ us, s.weather.conv = .converting us →
        exec .dniReady s = .next (arbiter { s with weather := { s.weather with conv := .reading } }))
    ∧ (∀ code : BitVec 16, s.weather.conv = .reading → code ≠ 0xFFFF#16 → ∃ r,
        r = min 1400 (code.toNat * s.limits.span / 65535)
        ∧ exec (.conversionComplete code) s = .next (arbiter { s with weather := { s.weather with
            conv := .waiting, reading := some r, sensorFault := false
            dni := if s.weather.dni ≤ r then r else max r (s.weather.dni - s.limits.decayStep) } })))
  ∧ (∀ (s : State) (c : Instr), s.inReset = false →
    ((c = .dniReadyTimeout ∧ ∃ us, s.weather.conv = .converting us)
      ∨ (c = .conversionComplete 0xFFFF#16 ∧ s.weather.conv = .reading)) →
    ∃ w : Weather, w = { s.weather with
        conv := .waiting, sensorFault := true, dni := max s.weather.dni s.limits.fallback }
      ∧ (s.weather.sensorFault = true → exec c s = .next (arbiter { s with weather := w }))
      ∧ (s.weather.sensorFault = false → ∃ u : State, exec c s = .next (arbiter u) ∧ u.weather = w
          ∧ u.exc.flags = s.exc.flags ||| ExcKind.dniSensor.bit
          ∧ u.sansPort = { s with weather := w, exc := u.exc }.sansPort ∧ u.link = s.link))

/-- LINE_PIN_CHANGE to a level other than the filtered one starts the 10 ms afresh, and to the filtered level discards them;
LINE_FILTER_EXPIRY takes the pin's level: STOW asserted raises LINE_STOW and moves the field to STOWING, PERMIT deasserted with the
permit in force raises PERMIT_DROP and starts the defocus pass. -/
def Obligations.LineFilters : Prop :=
  ∀ s : State, s.inReset = false →
    (∀ level, exec (.linePinChange .stow level) s = .next (arbiter (if s.weather.stowIn.pin = level then s else
      { s with weather := { s.weather with stowIn := { s.weather.stowIn with
          pin := level, hold := if level = s.weather.stowIn.level then none else some 10000 } } })))
    ∧ (∀ level, exec (.linePinChange .permit level) s = .next (arbiter (if s.weather.permitIn.pin = level then s else
      { s with weather := { s.weather with permitIn := { s.weather.permitIn with
          pin := level, hold := if level = s.weather.permitIn.level then none else some 10000 } } })))
    ∧ (∀ us, s.weather.stowIn.hold = some us → ∃ u : State, exec (.lineFilterExpiry .stow) s = .next (arbiter u)
        ∧ u.weather = { s.weather with stowIn := { s.weather.stowIn with level := s.weather.stowIn.pin, hold := none } }
        ∧ (s.weather.stowIn.pin = false → u = { s with weather := u.weather })
        ∧ (s.weather.stowIn.pin = true → u.exc.flags = s.exc.flags ||| ExcKind.lineStow.bit
            ∧ (s.sup.mode = .halted ∨ s.sup.mode = .tracking → u.sup = { s.sup with mode := .stowing, stowPass := some 0 })
            ∧ (s.sup.mode = .stowing ∨ s.sup.mode = .stowed ∨ s.sup.mode = .quiet → u.sup = s.sup))
        ∧ u.sansPort = { s with weather := u.weather, exc := u.exc, sup := u.sup, sweep := u.sweep }.sansPort ∧ u.link = s.link)
    ∧ (∀ us, s.weather.permitIn.hold = some us → ∃ u : State, exec (.lineFilterExpiry .permit) s = .next (arbiter u)
        ∧ u.weather = { s.weather with permitIn := { s.weather.permitIn with level := s.weather.permitIn.pin, hold := none } }
        ∧ (s.permit = true → s.weather.permitIn.pin = false → u.permit = false ∧ u.sup = { s.sup with defocusPass := some 0 }
            ∧ u.exc.flags = s.exc.flags ||| ExcKind.permitDrop.bit ∧ inSet u.notices.pend .mode = true)
        ∧ (s.permit = false → u.sup = s.sup ∧ u.exc = s.exc ∧ (u.permit = true → inSet u.notices.pend .mode = true))
        ∧ u.sansPort = { s with weather := u.weather, exc := u.exc, sup := u.sup }.sansPort ∧ u.link = s.link)

/-- SILENCE_EXPIRY raises LINK_SILENT, clears the host grant and restarts the timer; when that takes the permit out of force
PERMIT_DROP is raised too and the defocus pass starts. PLANT_TIME_WRAP takes the last millisecond of the day to 0, and at any other
time leaves the state as it is (the model's choice, log 1). -/
def Obligations.SupervisorTimers : Prop :=
  ∀ s : State, s.inReset = false →
    (∃ u : State, exec .silenceExpiry s = .next (arbiter u)
      ∧ u.sup = { s.sup with
          grant := false, silence := s.limits.silenceTimeout * 1000000
          defocusPass := if s.permit then some 0 else s.sup.defocusPass }
      ∧ u.exc.flags = s.exc.flags ||| ExcKind.linkSilent.bit ||| (if s.permit then ExcKind.permitDrop.bit else 0#16)
      ∧ u.permit = false ∧ u.sansPort = { s with sup := u.sup, exc := u.exc }.sansPort ∧ u.link = s.link)
    ∧ (s.sup.plantTime = 86399999 →
        exec .plantTimeWrap s = .next (arbiter { s with sup := { s.sup with plantTime := 0 } }))
    ∧ (s.sup.plantTime ≠ 86399999 → exec .plantTimeWrap s = .next s)

/-- An exception occurrence sets the kind's flag, whatever its mask, and a heliostat kind is written into the record as its last exception
kind. Masked, it does nothing more; unmasked, it latches the record, fills an empty fault record with kind, plant time and what it
carries and keeps a filled one, and raises the unmasked count, which stops at 65,535. ALERT is then evaluated anew, and its change to
asserted raises the ALERT source. Nothing else changes. -/
def Obligations.OccurrenceRecorded : Prop :=
  ∀ (s t : State) (kind : ExcKind) (helio zone slot : Option Nat),
    ((∃ i < Config.nHelio, helio = some i ∧ t = raiseHelio kind i zone slot s)
      ∨ (helio = none ∧ zone = none ∧ slot = none ∧ t = raiseField kind s)) →
    (∀ i, helio = some i → t.helio i = { s.helio i with
        lastExc := some kind, latched := (s.helio i).latched || !s.exc.masked kind })
    ∧ (∀ j, helio ≠ some j → t.helio j = s.helio j)
    ∧ (∀ k : ExcKind, t.exc.flags.getLsbD k.code = (s.exc.flags.getLsbD k.code || decide (k = kind)))
    ∧ t.exc.masks = s.exc.masks ∧ t.AlertLaw
    ∧ (s.exc.masks.getLsbD kind.code = true → t.exc.fault = s.exc.fault ∧ t.exc.count = s.exc.count)
    ∧ (s.exc.masks.getLsbD kind.code = false →
        t.exc.fault = (match s.exc.fault with
          | some r => some r
          | none => some ⟨kind, s.sup.plantTime, helio, zone, slot⟩)
        ∧ t.exc.count = min 65535 (s.exc.count + 1))
    ∧ t.notices = (if t.exc.alert = true ∧ s.exc.alert = false then s.notices.raise .alert else s.notices)
    ∧ t.sansPort = { s with helios := t.helios, exc := t.exc }.sansPort ∧ t.link = s.link

/-! ## The laws of a run -/

/-- ALERT follows the unmasked flags after every step. -/
def Obligations.AlertLawKept : Prop :=
  ∀ s t : State, s.AlertLaw → step s = .next t → t.AlertLaw

/-- The zone sums and user counts agree with the reservations after every step, so that leaving ≤ committed ≤ 187,901,952. -/
def Obligations.LedgerLawKept : Prop :=
  ∀ s t : State, s.LedgerLaw → step s = .next t →
    t.LedgerLaw ∧ ∀ z < Config.nZone, (t.zone z).leaving ≤ (t.zone z).committed ∧ (t.zone z).committed ≤ 187901952

/-- No step leaves two ENABLED entries in conflict, or two occupied records at one line and address. -/
def Obligations.TablesStayDistinct : Prop :=
  (∀ s t : State, s.NoConflict → step s = .next t → t.NoConflict)
  ∧ (∀ s t : State, s.UniqueAddress → step s = .next t → t.UniqueAddress)

/-- Field mode, sweep timer, start waiting, passes and quiet timers agree after every step: in TRACKING a sun record is present and the
next sweep is always due; outside it no timer runs. -/
def Obligations.ModeLawKept : Prop :=
  ∀ s t : State, s.ModeLaw → step s = .next t → t.ModeLaw

/-- Every commanded and pending target stays within the travel of its record's class. -/
def Obligations.TravelLawKept : Prop :=
  ∀ s t : State, s.TravelLaw → step s = .next t → t.TravelLaw

/-- Limits, measurements, queues and counts stay in the ranges of their tables. -/
def Obligations.RangeLawKept : Prop :=
  ∀ s t : State, s.RangeLaw → step s = .next t → t.RangeLaw

/-- The machine right after reset meets all the laws. -/
def Obligations.ResetMeetsLaws : Prop :=
  State.reset.AlertLaw ∧ State.reset.LedgerLaw ∧ State.reset.NoConflict ∧ State.reset.UniqueAddress ∧ State.reset.ModeLaw
    ∧ State.reset.TravelLaw ∧ State.reset.RangeLaw

/-- No step brings a LEAVING record back to APPROACH, ON_TARGET or RETARGET; while it stays LEAVING its reservations stay as they are. -/
def Obligations.LeavingOnlyEndsReleased : Prop :=
  ∀ (s t : State) (i : Nat), step s = .next t → (s.helio i).st = .leaving →
    ((t.helio i).st = .leaving ∧ (t.helio i).primary = (s.helio i).primary ∧ (t.helio i).transfer = (s.helio i).transfer)
    ∨ (((t.helio i).st = .clear ∨ (t.helio i).st = .idle ∨ (t.helio i).st = .vacant)
        ∧ ((s.helio i).reserved = true → (t.helio i).primary = none ∧ (t.helio i).transfer = none))

/-- A step creates a reservation only in TRACKING with the permit in force, under a sun neither stale nor low, for a record not LATCHED,
through an ENABLED entry that permits its duty. -/
def Obligations.ReservationsCreatedOnlyWhenAllowed : Prop :=
  ∀ (s t : State) (i : Nat) (r : Reservation), step s = .next t → (s.helio i).gains (t.helio i) = some r →
    s.sup.mode = .tracking ∧ s.permit = true
      ∧ (∃ sun, s.sweep.snapSun = some sun ∧ sun.flags.stale = false ∧ sun.flags.low = false)
      ∧ (s.helio i).latched = false ∧ (s.entry r.slot).st = .enabled
      ∧ (s.entry r.slot).permits (s.helio i).duty = true ∧ (s.entry r.slot).zone = r.zone

/-- The static fields of records change only by LOAD_HELIOSTAT, REMOVE_HELIOSTAT and COLD_RESET, and the duty also by SET_DUTY; classes,
standby points, limits and masks change only by the request that writes them and by COLD_RESET. -/
def Obligations.ConfigurationFrame : Prop :=
  ∀ (c : Instr) (s t : State), exec c s = .next t → c ≠ .coldReset →
    (c ≠ .loadHeliostat → c ≠ .removeHeliostat → c ≠ .setDuty → ∀ i, (t.helio i).static = (s.helio i).static)
    ∧ (c = .setDuty → ∀ i, { t.helio i with duty := (s.helio i).duty } = s.helio i)
    ∧ (c ≠ .loadClass → t.classes = s.classes) ∧ (c ≠ .setStandby → t.standbys = s.standbys)
    ∧ (c ≠ .setLimits → t.limits = s.limits) ∧ (c ≠ .setMasks → t.exc.masks = s.exc.masks)
    ∧ (c ≠ .setTime → c ≠ .plantTimeWrap → t.sup.plantTime = s.sup.plantTime)
    ∧ (c ≠ .loadSun → t.sup.sun = s.sup.sun ∧ t.sup.sunPresent = s.sup.sunPresent)

end Statements
end

