-- ==== Sys2Proof/Laws/State.lean ====
section
/-! SUPPORT. Reading after writing: one lemma per table and update, so that no proof unfolds a record update. -/

namespace Sys2Proof.Machine

/-- A table entry read after one was written. -/
theorem getD_setIfInBounds {α : Type} {m : Nat} (xs : Vector α m) (i j : Nat) (a d : α) :
    (xs.setIfInBounds i a)[j]?.getD d = if i = j ∧ i < m then a else xs[j]?.getD d := by
  rw [Vector.getElem?_setIfInBounds]
  by_cases e : i = j
  · subst e
    by_cases b : i < m
    · simp [b]
    · simp [b]
  · simp [e]

variable (s : State) (i j k n z : Nat)

/-! ## Reads after writes of the same table -/

theorem helio_setHelio (h : Helio) : (s.setHelio i h).helio j = if i = j ∧ i < Config.nHelio then h else s.helio j :=
  getD_setIfInBounds _ _ _ _ _

theorem helio_setHelio_self (h : Helio) (b : i < Config.nHelio) : (s.setHelio i h).helio i = h := by
  simp [helio_setHelio, b]

@[simp] theorem helio_setHelio_ne (h : Helio) (e : j ≠ i) : (s.setHelio i h).helio j = s.helio j := by
  rw [helio_setHelio, if_neg]; rintro ⟨rfl, _⟩; exact e rfl

theorem entry_setEntry (e : AimEntry) : (s.setEntry k e).entry j = if k = j ∧ k < Config.nSlot then e else s.entry j :=
  getD_setIfInBounds _ _ _ _ _

theorem zone_setZone (r : Zone) : (s.setZone z r).zone j = if z = j ∧ z < Config.nZone then r else s.zone j :=
  getD_setIfInBounds _ _ _ _ _

theorem line_setLine (l : Line) : (s.setLine n l).line j = if n = j ∧ n < Config.nLine then l else s.line j :=
  getD_setIfInBounds _ _ _ _ _

/-- Taking every record through f touches the heliostat table alone. -/
theorem mapHelios_eq (f : Helio → Helio) : s.mapHelios f = { s with helios := s.helios.map f } := by
  unfold State.mapHelios
  congr 1
  apply Vector.toList_inj.1
  exact Vector.toList_map.symm

/-- Each record of the table after taking every record through f. -/
theorem helio_mapHelios (f : Helio → Helio) (b : i < Config.nHelio) : (s.mapHelios f).helio i = f (s.helio i) := by
  rw [mapHelios_eq]
  simp [State.helio, Vector.getElem?_eq_getElem b]

/-- A record that is not VACANT lies in the table. -/
theorem lt_of_not_vacant (e : (s.helio i).st ≠ .vacant) : i < Config.nHelio := by
  by_contra b
  apply e
  simp [State.helio, Vector.getElem?_eq_none (Nat.le_of_not_lt b)]

/-- Past the table every record reads as VACANT. -/
theorem helio_of_ge (b : ¬ i < Config.nHelio) : s.helio i = {} := by
  simp [State.helio, Vector.getElem?_eq_none (Nat.le_of_not_lt b)]

/-- Writing what a record holds changes nothing. -/
@[simp] theorem setHelio_self : s.setHelio i (s.helio i) = s := by
  unfold State.setHelio State.helio
  congr 1
  ext m hm
  simp only [Vector.getElem_setIfInBounds]
  split
  · subst_vars; simp [hm]
  · rfl

@[simp] theorem setLine_self : s.setLine n (s.line n) = s := by
  unfold State.setLine State.line
  congr 1
  ext m hm
  simp only [Vector.getElem_setIfInBounds]
  split
  · subst_vars; simp [hm]
  · rfl

/-- Records as members of the table. -/
theorem mem_helios (h : Helio) : h ∈ s.helios.toList ↔ ∃ i, i < Config.nHelio ∧ s.helio i = h := by
  constructor
  · intro m
    obtain ⟨i, hi, e⟩ := List.getElem_of_mem m
    refine ⟨i, by simpa using hi, ?_⟩
    have hi' : i < Config.nHelio := by simpa using hi
    simpa [State.helio, hi'] using e
  · rintro ⟨i, hi, e⟩
    have e' : s.helios[i] = h := by simpa [State.helio, hi] using e
    rw [← e']; simp

/-! ## What an update of one table leaves alone -/

@[simp] theorem setHelio_classes (h : Helio) : (s.setHelio i h).classes = s.classes := rfl
@[simp] theorem setHelio_standbys (h : Helio) : (s.setHelio i h).standbys = s.standbys := rfl
@[simp] theorem setHelio_entries (h : Helio) : (s.setHelio i h).entries = s.entries := rfl
@[simp] theorem setHelio_drained (h : Helio) : (s.setHelio i h).drained = s.drained := rfl
@[simp] theorem setHelio_zones (h : Helio) : (s.setHelio i h).zones = s.zones := rfl
@[simp] theorem setHelio_sweep (h : Helio) : (s.setHelio i h).sweep = s.sweep := rfl
@[simp] theorem setHelio_lines (h : Helio) : (s.setHelio i h).lines = s.lines := rfl
@[simp] theorem setHelio_weather (h : Helio) : (s.setHelio i h).weather = s.weather := rfl
@[simp] theorem setHelio_sup (h : Helio) : (s.setHelio i h).sup = s.sup := rfl
@[simp] theorem setHelio_limits (h : Helio) : (s.setHelio i h).limits = s.limits := rfl
@[simp] theorem setHelio_exc (h : Helio) : (s.setHelio i h).exc = s.exc := rfl
@[simp] theorem setHelio_notices (h : Helio) : (s.setHelio i h).notices = s.notices := rfl
@[simp] theorem setHelio_link (h : Helio) : (s.setHelio i h).link = s.link := rfl
@[simp] theorem setHelio_inReset (h : Helio) : (s.setHelio i h).inReset = s.inReset := rfl
@[simp] theorem setHelio_pending (h : Helio) : (s.setHelio i h).pending = s.pending := rfl
@[simp] theorem setHelio_entry (h : Helio) : (s.setHelio i h).entry k = s.entry k := rfl
@[simp] theorem setHelio_zone (h : Helio) : (s.setHelio i h).zone z = s.zone z := rfl
@[simp] theorem setHelio_line (h : Helio) : (s.setHelio i h).line n = s.line n := rfl
@[simp] theorem setHelio_driveClass (h : Helio) : (s.setHelio i h).driveClass n = s.driveClass n := rfl

@[simp] theorem setEntry_helios (e : AimEntry) : (s.setEntry k e).helios = s.helios := rfl
@[simp] theorem setEntry_classes (e : AimEntry) : (s.setEntry k e).classes = s.classes := rfl
@[simp] theorem setEntry_standbys (e : AimEntry) : (s.setEntry k e).standbys = s.standbys := rfl
@[simp] theorem setEntry_drained (e : AimEntry) : (s.setEntry k e).drained = s.drained := rfl
@[simp] theorem setEntry_zones (e : AimEntry) : (s.setEntry k e).zones = s.zones := rfl
@[simp] theorem setEntry_sweep (e : AimEntry) : (s.setEntry k e).sweep = s.sweep := rfl
@[simp] theorem setEntry_lines (e : AimEntry) : (s.setEntry k e).lines = s.lines := rfl
@[simp] theorem setEntry_weather (e : AimEntry) : (s.setEntry k e).weather = s.weather := rfl
@[simp] theorem setEntry_sup (e : AimEntry) : (s.setEntry k e).sup = s.sup := rfl
@[simp] theorem setEntry_limits (e : AimEntry) : (s.setEntry k e).limits = s.limits := rfl
@[simp] theorem setEntry_exc (e : AimEntry) : (s.setEntry k e).exc = s.exc := rfl
@[simp] theorem setEntry_notices (e : AimEntry) : (s.setEntry k e).notices = s.notices := rfl
@[simp] theorem setEntry_link (e : AimEntry) : (s.setEntry k e).link = s.link := rfl
@[simp] theorem setEntry_inReset (e : AimEntry) : (s.setEntry k e).inReset = s.inReset := rfl
@[simp] theorem setEntry_pending (e : AimEntry) : (s.setEntry k e).pending = s.pending := rfl
@[simp] theorem setEntry_helio (e : AimEntry) : (s.setEntry k e).helio i = s.helio i := rfl
@[simp] theorem setEntry_zone (e : AimEntry) : (s.setEntry k e).zone z = s.zone z := rfl
@[simp] theorem setEntry_line (e : AimEntry) : (s.setEntry k e).line n = s.line n := rfl
@[simp] theorem setEntry_driveClass (e : AimEntry) : (s.setEntry k e).driveClass n = s.driveClass n := rfl

@[simp] theorem setZone_helios (r : Zone) : (s.setZone z r).helios = s.helios := rfl
@[simp] theorem setZone_classes (r : Zone) : (s.setZone z r).classes = s.classes := rfl
@[simp] theorem setZone_standbys (r : Zone) : (s.setZone z r).standbys = s.standbys := rfl
@[simp] theorem setZone_entries (r : Zone) : (s.setZone z r).entries = s.entries := rfl
@[simp] theorem setZone_drained (r : Zone) : (s.setZone z r).drained = s.drained := rfl
@[simp] theorem setZone_sweep (r : Zone) : (s.setZone z r).sweep = s.sweep := rfl
@[simp] theorem setZone_lines (r : Zone) : (s.setZone z r).lines = s.lines := rfl
@[simp] theorem setZone_weather (r : Zone) : (s.setZone z r).weather = s.weather := rfl
@[simp] theorem setZone_sup (r : Zone) : (s.setZone z r).sup = s.sup := rfl
@[simp] theorem setZone_limits (r : Zone) : (s.setZone z r).limits = s.limits := rfl
@[simp] theorem setZone_exc (r : Zone) : (s.setZone z r).exc = s.exc := rfl
@[simp] theorem setZone_notices (r : Zone) : (s.setZone z r).notices = s.notices := rfl
@[simp] theorem setZone_link (r : Zone) : (s.setZone z r).link = s.link := rfl
@[simp] theorem setZone_inReset (r : Zone) : (s.setZone z r).inReset = s.inReset := rfl
@[simp] theorem setZone_pending (r : Zone) : (s.setZone z r).pending = s.pending := rfl
@[simp] theorem setZone_helio (r : Zone) : (s.setZone z r).helio i = s.helio i := rfl
@[simp] theorem setZone_entry (r : Zone) : (s.setZone z r).entry k = s.entry k := rfl
@[simp] theorem setZone_line (r : Zone) : (s.setZone z r).line n = s.line n := rfl
@[simp] theorem setZone_driveClass (r : Zone) : (s.setZone z r).driveClass n = s.driveClass n := rfl

@[simp] theorem setLine_helios (l : Line) : (s.setLine n l).helios = s.helios := rfl
@[simp] theorem setLine_classes (l : Line) : (s.setLine n l).classes = s.classes := rfl
@[simp] theorem setLine_standbys (l : Line) : (s.setLine n l).standbys = s.standbys := rfl
@[simp] theorem setLine_entries (l : Line) : (s.setLine n l).entries = s.entries := rfl
@[simp] theorem setLine_drained (l : Line) : (s.setLine n l).drained = s.drained := rfl
@[simp] theorem setLine_zones (l : Line) : (s.setLine n l).zones = s.zones := rfl
@[simp] theorem setLine_sweep (l : Line) : (s.setLine n l).sweep = s.sweep := rfl
@[simp] theorem setLine_weather (l : Line) : (s.setLine n l).weather = s.weather := rfl
@[simp] theorem setLine_sup (l : Line) : (s.setLine n l).sup = s.sup := rfl
@[simp] theorem setLine_limits (l : Line) : (s.setLine n l).limits = s.limits := rfl
@[simp] theorem setLine_exc (l : Line) : (s.setLine n l).exc = s.exc := rfl
@[simp] theorem setLine_notices (l : Line) : (s.setLine n l).notices = s.notices := rfl
@[simp] theorem setLine_link (l : Line) : (s.setLine n l).link = s.link := rfl
@[simp] theorem setLine_inReset (l : Line) : (s.setLine n l).inReset = s.inReset := rfl
@[simp] theorem setLine_pending (l : Line) : (s.setLine n l).pending = s.pending := rfl
@[simp] theorem setLine_helio (l : Line) : (s.setLine n l).helio i = s.helio i := rfl
@[simp] theorem setLine_entry (l : Line) : (s.setLine n l).entry k = s.entry k := rfl
@[simp] theorem setLine_zone (l : Line) : (s.setLine n l).zone z = s.zone z := rfl
@[simp] theorem setLine_driveClass (l : Line) : (s.setLine n l).driveClass i = s.driveClass i := rfl

/-! ## Record states -/

@[simp] theorem toState_st (st : HState) (h : Helio) : (h.toState st).st = st := by unfold Helio.toState; split <;> simp_all
@[simp] theorem toState_primary (st : HState) (h : Helio) : (h.toState st).primary = h.primary := by unfold Helio.toState; split <;> rfl
@[simp] theorem toState_transfer (st : HState) (h : Helio) : (h.toState st).transfer = h.transfer := by unfold Helio.toState; split <;> rfl
@[simp] theorem toState_pendingT (st : HState) (h : Helio) : (h.toState st).pendingT = h.pendingT := by unfold Helio.toState; split <;> rfl
@[simp] theorem toState_commanded (st : HState) (h : Helio) : (h.toState st).commanded = h.commanded := by unfold Helio.toState; split <;> rfl
@[simp] theorem toState_reported (st : HState) (h : Helio) : (h.toState st).reported = h.reported := by unfold Helio.toState; split <;> rfl
@[simp] theorem toState_cls (st : HState) (h : Helio) : (h.toState st).cls = h.cls := by unfold Helio.toState; split <;> rfl
@[simp] theorem toState_line (st : HState) (h : Helio) : (h.toState st).line = h.line := by unfold Helio.toState; split <;> rfl
@[simp] theorem toState_addr (st : HState) (h : Helio) : (h.toState st).addr = h.addr := by unfold Helio.toState; split <;> rfl
@[simp] theorem toState_weight (st : HState) (h : Helio) : (h.toState st).weight = h.weight := by unfold Helio.toState; split <;> rfl
@[simp] theorem toState_misses (st : HState) (h : Helio) : (h.toState st).misses = h.misses := by unfold Helio.toState; split <;> rfl
@[simp] theorem toState_latched (st : HState) (h : Helio) : (h.toState st).latched = h.latched := by unfold Helio.toState; split <;> rfl
@[simp] theorem toState_duty (st : HState) (h : Helio) : (h.toState st).duty = h.duty := by unfold Helio.toState; split <;> rfl

/-- A change of state in one equation (R26). -/
theorem toState_eq (st : HState) (h : Helio) : h.toState st = { h with st := st, lag := if h.st = st then h.lag else 0 } := by
  unfold Helio.toState
  split
  · rename_i e; subst e; rfl
  · rfl

/-- The posting rule writes the pending target alone. -/
theorem post_eq (d : Nat) (t : Target) (h : Helio) : h.post d t = { h with pendingT := (h.post d t).pendingT } := by
  unfold Helio.post; split <;> split <;> rfl

/-- An urgent target offered leaves an urgent target pending (R34, R35). -/
theorem post_urgent (d : Nat) (t : Target) (h : Helio) (u : t.kind.urgent = true) :
    ∃ p, (h.post d t).pendingT = some p ∧ p.kind.urgent = true := by
  unfold Helio.post
  split
  · simp [u]
  · rename_i p e
    split
    · exact ⟨t, rfl, u⟩
    · rename_i r
      refine ⟨p, e, ?_⟩
      revert r u
      cases t.kind <;> cases p.kind <;> simp [TargetKind.replaces, TargetKind.urgent]

/-- A STOW offered is always pending afterwards (R35). -/
theorem post_stow (d : Nat) (t : Target) (h : Helio) (k : t.kind = .stow) : (h.post d t).pendingT = some t := by
  unfold Helio.post; split <;> simp [k, TargetKind.urgent, TargetKind.replaces]

end Sys2Proof.Machine
end

