-- ==== Sys2Proof/Laws/Lookup.lean ====
section
/-! SUPPORT. The first index that satisfies a test, and what a lookup finds (R48 to R51). -/

namespace Sys2Proof.Machine

/-- A search is the library's search over the indices. -/
theorem firstFrom_eq_find (p : Nat → Bool) : ∀ n i, firstFrom p n i = (List.range' i n).find? p := by
  intro n
  induction n with
  | zero => intro i; rfl
  | succ n ih =>
    intro i
    simp only [firstFrom, List.range'_succ, List.find?_cons, ih]
    cases p i <;> rfl

/-- What a search finds: the first index that satisfies the test. -/
theorem firstFrom_some {p : Nat → Bool} {n i k : Nat} (h : firstFrom p n i = some k) :
    i ≤ k ∧ k < i + n ∧ p k = true ∧ ∀ j, i ≤ j → j < k → p j = false := by
  induction n generalizing i with
  | zero => cases h
  | succ n ih =>
    unfold firstFrom at h
    split at h
    · rename_i hp
      cases h
      exact ⟨Nat.le_refl _, by omega, hp, fun j a b => by omega⟩
    · rename_i hp
      obtain ⟨a, b, c, d⟩ := ih h
      refine ⟨by omega, by omega, c, ?_⟩
      intro j h1 h2
      rcases Nat.eq_or_lt_of_le h1 with rfl | h3
      · simpa using hp
      · exact d j h3 h2

/-- A search that finds nothing: no index satisfies the test. -/
theorem firstFrom_none {p : Nat → Bool} {n i : Nat} (h : firstFrom p n i = none) : ∀ j, i ≤ j → j < i + n → p j = false := by
  induction n generalizing i with
  | zero => intro j a b; omega
  | succ n ih =>
    unfold firstFrom at h
    split at h
    · cases h
    · rename_i hp
      intro j h1 h2
      rcases Nat.eq_or_lt_of_le h1 with rfl | h3
      · simpa using hp
      · exact ih h j h3 (by omega)

/-- The first index depends on the test at the indices searched alone. -/
theorem firstFrom_congr {p q : Nat → Bool} {n i : Nat} (h : ∀ j, i ≤ j → j < i + n → p j = q j) : firstFrom p n i = firstFrom q n i := by
  induction n generalizing i with
  | zero => rfl
  | succ n ih => simp only [firstFrom]; rw [h i (by omega) (by omega), ih fun j a b => h j (by omega) (by omega)]

/-- What a lookup that finds has found: an ENABLED entry that matches the pair and permits the duty (R49 to R51). -/
theorem lookup_found {s : State} {h strategy k : Nat} {d : Duty} (e : s.lookup h strategy d = .found k) :
    k < Config.nSlot ∧ (s.entry k).matches h strategy = true ∧ (s.entry k).permits d = true := by
  unfold State.lookup at e
  split at e
  · cases e
  · rename_i k' hk
    split at e
    · rename_i hp
      cases e
      obtain ⟨-, b, c, -⟩ := firstFrom_some hk
      exact ⟨by omega, c, hp⟩
    · cases e

/-- An entry that matches is ENABLED. -/
theorem matches_enabled {e : AimEntry} {h strategy : Nat} (m : e.matches h strategy = true) : e.st = .enabled := by
  simp only [AimEntry.matches, Bool.and_eq_true, beq_iff_eq] at m
  exact m.1.1

/-- A search along the records is a search over their indices. -/
theorem firstRecord_eq (p : Helio → Bool) (s : State) (m : Nat) : ∀ i, Config.nHelio - i = m →
    firstRecord p (s.helios.toList.drop i) i = firstFrom (fun j => p (s.helio j)) m i := by
  induction m with
  | zero =>
    intro i e
    rw [List.drop_eq_nil_of_le (by rw [Vector.length_toList]; omega)]
    rfl
  | succ m ih =>
    intro i e
    have b : i < s.helios.toList.length := by rw [Vector.length_toList]; omega
    have hi : s.helios.toList[i] = s.helio i := by
      rw [Vector.length_toList] at b
      simp [State.helio, Vector.getElem?_eq_getElem b]
    rw [List.drop_eq_getElem_cons b, hi]
    simp only [firstRecord, firstFrom]
    rw [ih (i + 1) (by omega)]

/-- The next occupied record, as a search over the indices. -/
theorem nextOccupied_eq (s : State) (i : Nat) :
    s.nextOccupied i = firstFrom (fun j => (s.helio j).occupied) (Config.nHelio - i) i := firstRecord_eq _ s _ i rfl

/-- The next occupied record. -/
theorem nextOccupied_some {s : State} {p i : Nat} (h : s.nextOccupied p = some i) :
    p ≤ i ∧ i < Config.nHelio ∧ (s.helio i).occupied = true ∧ ∀ j, p ≤ j → j < i → (s.helio j).occupied = false := by
  rw [nextOccupied_eq] at h
  obtain ⟨a, b, c, d⟩ := firstFrom_some h
  refine ⟨a, ?_, c, d⟩
  exact lt_of_not_vacant s i (by simpa [Helio.occupied] using c)

end Sys2Proof.Machine
end

