-- ==== Sys2Proof/Laws/Bytes.lean ====
section
/-! SUPPORT. Numbers written as bytes read back as they were (R189), and a span followed by its own check matches (R118, R180). -/

namespace Sys2Proof.Machine

@[simp] theorem natBytes_length (n v : Nat) : (natBytes n v).length = n := by
  induction n generalizing v with
  | zero => rfl
  | succ n ih => simp [natBytes, ih]

@[simp] theorem intBytes_length (n : Nat) (v : Int) : (intBytes n v).length = n := by simp [intBytes]

@[simp] theorem byte1_length (v : Nat) : (byte1 v).length = 1 := by simp [byte1]

@[simp] theorem boolByte_length (b : Bool) : (boolByte b).length = 1 := by simp [boolByte]

@[simp] theorem crcBytes_length (bs : List Byte) : (crcBytes bs).length = 2 := by simp [crcBytes]

theorem beNat_append_one (bs : List Byte) (b : Byte) : beNat (bs ++ [b]) = beNat bs * 256 + b.toNat := by
  simp [beNat, List.foldl_append]

/-- Big-endian bytes read back as the number (R189). -/
theorem beNat_natBytes (n v : Nat) : beNat (natBytes n v) = v % 256 ^ n := by
  induction n generalizing v with
  | zero => simp [natBytes, beNat, Nat.mod_one]
  | succ n ih =>
    have split := Nat.mod_mul (x := v) (a := 256) (b := 256 ^ n)
    rw [natBytes, beNat_append_one, ih, BitVec.toNat_ofNat, pow_succ' 256 n, split]
    omega

theorem beNat_natBytes_of_lt {n v : Nat} (h : v < 256 ^ n) : beNat (natBytes n v) = v := by
  rw [beNat_natBytes, Nat.mod_eq_of_lt h]

/-- Two's complement bytes read back as the number (R189). -/
theorem beInt_intBytes {n : Nat} {v : Int} (lo : -(256 ^ n : Nat) ≤ 2 * v) (hi : 2 * v < (256 ^ n : Nat)) :
    beInt (intBytes n v) = v := by
  have p : 0 < (256 ^ n : Nat) := Nat.pow_pos (by norm_num)
  have r : beNat (intBytes n v) = (v % ((256 ^ n : Nat) : Int)).toNat % 256 ^ n := beNat_natBytes _ _
  simp only [beInt, intBytes_length, r]
  clear r
  generalize hm : (256 ^ n : Nat) = m at *
  have hm0 : (m : Int) ≠ 0 := by omega
  have h1 := Int.emod_nonneg v hm0
  have h2 := Int.emod_lt_of_pos v (show (0 : Int) < m by omega)
  have h3 : (v % (m : Int)).toNat % m = (v % (m : Int)).toNat := Nat.mod_eq_of_lt (by omega)
  rw [h3]
  have key : v % (m : Int) = if 0 ≤ v then v else v + m := by
    split
    · exact Int.emod_eq_of_lt ‹_› (by omega)
    · rw [← Int.add_emod_right, Int.emod_eq_of_lt (by omega) (by omega)]
  rw [key]
  split <;> split <;> omega

theorem beNat_two (b c : Byte) : beNat [b, c] = b.toNat * 256 + c.toNat := by simp [beNat]

/-- Two bytes are the check exactly when they read as its value. -/
theorem check_iff (span : List Byte) (b c : Byte) : (crc16 span).toNat = beNat [b, c] ↔ [b, c] = crcBytes span := by
  have hb := b.isLt
  have hc := c.isLt
  have hx := (crc16 span).isLt
  rw [beNat_two]
  constructor
  · intro h
    simp only [crcBytes, natBytes, List.nil_append, List.cons_append, List.cons.injEq, and_true, h]
    constructor
    · apply BitVec.eq_of_toNat_eq; rw [BitVec.toNat_ofNat]; omega
    · apply BitVec.eq_of_toNat_eq; rw [BitVec.toNat_ofNat]; omega
  · intro h
    simp only [crcBytes, natBytes, List.nil_append, List.cons_append, List.cons.injEq, and_true] at h
    rw [h.1, h.2, BitVec.toNat_ofNat, BitVec.toNat_ofNat]
    omega

/-- Whether a span and two further bytes match. -/
theorem crcMatches_two (span : List Byte) (b c : Byte) : crcMatches (span ++ [b, c]) = decide ([b, c] = crcBytes span) := by
  unfold crcMatches
  simp only [List.length_append, List.length_cons, List.length_nil, Nat.add_sub_cancel, List.take_left', List.drop_left']
  exact decide_eq_decide.mpr (check_iff span b c)

/-- A span with its own check matches. -/
theorem crcMatches_self (span : List Byte) : crcMatches (span ++ crcBytes span) = true := by
  have e : crcBytes span = [BitVec.ofNat 8 ((crc16 span).toNat / 256), BitVec.ofNat 8 (crc16 span).toNat] := by
    simp [crcBytes, natBytes]
  rw [e, crcMatches_two]
  simp [crcBytes, natBytes]

/-! ## Fields of a payload -/

/-- The field at the front of a payload. -/
theorem fieldNat_zero {n v : Nat} (rest : List Byte) (h : v < 256 ^ n) : fieldNat (natBytes n v ++ rest) 0 n = v := by
  simp [fieldNat, beNat_natBytes_of_lt h]

/-- A field behind a front of known length. -/
theorem fieldNat_append (front p : List Byte) (off n : Nat) (h : front.length ≤ off) :
    fieldNat (front ++ p) off n = fieldNat p (off - front.length) n := by
  simp [fieldNat, List.drop_append, List.drop_eq_nil_of_le h]

theorem fieldInt_append (front p : List Byte) (off n : Nat) (h : front.length ≤ off) :
    fieldInt (front ++ p) off n = fieldInt p (off - front.length) n := by
  simp [fieldInt, List.drop_append, List.drop_eq_nil_of_le h]

theorem fieldInt_zero {n : Nat} {v : Int} (rest : List Byte) (lo : -(256 ^ n : Nat) ≤ 2 * v) (hi : 2 * v < (256 ^ n : Nat)) :
    fieldInt (intBytes n v ++ rest) 0 n = v := by
  simp [fieldInt, beInt_intBytes lo hi]

theorem fieldNat_byte1 {v : Nat} (rest : List Byte) (h : v < 256) : fieldNat (byte1 v ++ rest) 0 1 = v := by
  simp [fieldNat, byte1, beNat, Nat.mod_eq_of_lt h]

theorem fieldNat_all {n v : Nat} (h : v < 256 ^ n) : fieldNat (natBytes n v) 0 n = v := by simpa using fieldNat_zero [] h

theorem fieldInt_all {n : Nat} {v : Int} (lo : -(256 ^ n : Nat) ≤ 2 * v) (hi : 2 * v < (256 ^ n : Nat)) :
    fieldInt (intBytes n v) 0 n = v := by simpa using fieldInt_zero [] lo hi

theorem fieldNat_byte1_all {v : Nat} (h : v < 256) : fieldNat (byte1 v) 0 1 = v := by simpa using fieldNat_byte1 [] h

end Sys2Proof.Machine
end

