-- ==== Sys2Proof/Laws/Port.lean ====
section
/-! SUPPORT. What the plant link port can do to a state: the arbiter, a reply, and the carrying out of a request. -/

namespace Sys2Proof.Machine

/-! ## The arbiter changes the port alone -/

/-- The arbiter in one equation: it writes the link's ready list and transmitter, and the due set and sequence of the notices. -/
theorem arbiter_eq (s : State) : ∃ ready tx due seq, arbiter s =
    { s with link := { s.link with ready := ready, tx := tx }, notices := { s.notices with due := due, seq := seq } } := by
  unfold arbiter
  split
  · exact ⟨_, _, _, _, rfl⟩
  · split
    · exact ⟨_, _, _, _, rfl⟩
    · split
      · exact ⟨_, _, _, _, rfl⟩
      · exact ⟨_, _, _, _, rfl⟩

section Arbiter
variable (s : State) (i k n z : Nat)

@[simp] theorem arbiter_helios : (arbiter s).helios = s.helios := by obtain ⟨_, _, _, _, e⟩ := arbiter_eq s; rw [e]
@[simp] theorem arbiter_classes : (arbiter s).classes = s.classes := by obtain ⟨_, _, _, _, e⟩ := arbiter_eq s; rw [e]
@[simp] theorem arbiter_standbys : (arbiter s).standbys = s.standbys := by obtain ⟨_, _, _, _, e⟩ := arbiter_eq s; rw [e]
@[simp] theorem arbiter_entries : (arbiter s).entries = s.entries := by obtain ⟨_, _, _, _, e⟩ := arbiter_eq s; rw [e]
@[simp] theorem arbiter_drained : (arbiter s).drained = s.drained := by obtain ⟨_, _, _, _, e⟩ := arbiter_eq s; rw [e]
@[simp] theorem arbiter_zones : (arbiter s).zones = s.zones := by obtain ⟨_, _, _, _, e⟩ := arbiter_eq s; rw [e]
@[simp] theorem arbiter_sweep : (arbiter s).sweep = s.sweep := by obtain ⟨_, _, _, _, e⟩ := arbiter_eq s; rw [e]
@[simp] theorem arbiter_lines : (arbiter s).lines = s.lines := by obtain ⟨_, _, _, _, e⟩ := arbiter_eq s; rw [e]
@[simp] theorem arbiter_weather : (arbiter s).weather = s.weather := by obtain ⟨_, _, _, _, e⟩ := arbiter_eq s; rw [e]
@[simp] theorem arbiter_sup : (arbiter s).sup = s.sup := by obtain ⟨_, _, _, _, e⟩ := arbiter_eq s; rw [e]
@[simp] theorem arbiter_limits : (arbiter s).limits = s.limits := by obtain ⟨_, _, _, _, e⟩ := arbiter_eq s; rw [e]
@[simp] theorem arbiter_exc : (arbiter s).exc = s.exc := by obtain ⟨_, _, _, _, e⟩ := arbiter_eq s; rw [e]
@[simp] theorem arbiter_inReset : (arbiter s).inReset = s.inReset := by obtain ⟨_, _, _, _, e⟩ := arbiter_eq s; rw [e]
@[simp] theorem arbiter_pending : (arbiter s).pending = s.pending := by obtain ⟨_, _, _, _, e⟩ := arbiter_eq s; rw [e]
@[simp] theorem arbiter_queue : (arbiter s).link.queue = s.link.queue := by obtain ⟨_, _, _, _, e⟩ := arbiter_eq s; rw [e]
@[simp] theorem arbiter_fullList : (arbiter s).link.fullList = s.link.fullList := by obtain ⟨_, _, _, _, e⟩ := arbiter_eq s; rw [e]
@[simp] theorem arbiter_cursor : (arbiter s).link.cursor = s.link.cursor := by obtain ⟨_, _, _, _, e⟩ := arbiter_eq s; rw [e]
@[simp] theorem arbiter_rx : (arbiter s).link.rx = s.link.rx := by obtain ⟨_, _, _, _, e⟩ := arbiter_eq s; rw [e]
@[simp] theorem arbiter_restarting : (arbiter s).link.restarting = s.link.restarting := by obtain ⟨_, _, _, _, e⟩ := arbiter_eq s; rw [e]
@[simp] theorem arbiter_pend : (arbiter s).notices.pend = s.notices.pend := by obtain ⟨_, _, _, _, e⟩ := arbiter_eq s; rw [e]
@[simp] theorem arbiter_sansPort : (arbiter s).sansPort = s.sansPort := by obtain ⟨_, _, _, _, e⟩ := arbiter_eq s; rw [e]; rfl
@[simp] theorem arbiter_helio : (arbiter s).helio i = s.helio i := by simp [State.helio]
@[simp] theorem arbiter_entry : (arbiter s).entry k = s.entry k := by simp [State.entry]
@[simp] theorem arbiter_zone : (arbiter s).zone z = s.zone z := by simp [State.zone]
@[simp] theorem arbiter_line : (arbiter s).line n = s.line n := by simp [State.line]
end Arbiter

/-- A busy transmitter is left alone. -/
theorem arbiter_busy {s : State} (h : s.link.tx.isSome = true) : arbiter s = s := by simp [arbiter, h]

/-- The arbiter acts once: what it leaves gives it nothing more to do. -/
theorem arbiter_idem (s : State) : arbiter (arbiter s) = arbiter s := by
  by_cases h : s.link.tx.isSome = true
  · rw [arbiter_busy h, arbiter_busy h]
  · by_cases e : arbiter s = s
    · rw [e, e]
    · apply arbiter_busy
      revert e
      unfold arbiter
      rw [if_neg h]
      split
      · intro _; rfl
      · split
        · intro e; exact absurd rfl e
        · intro _; rfl

/-- Sources have bits of their own: one not in front of the first due source has none due. -/
theorem firstDue_eq_none_of_zero {n : Notices} (h : n.due = 0#6) : firstDue n = none := by
  simp [firstDue, inSet, h, NoticeSrc.bit]

/-! ## Answering a request -/

/-- What a command that can act answers. -/
theorem act_true {s : State} (h : s.inReset = false) (f : State → State) : act true f s = .next (arbiter (f s)) := by
  simp [act, h]

theorem act_of {s : State} {due : Bool} (h : s.inReset = false) (d : due = true) (f : State → State) :
    act due f s = .next (arbiter (f s)) := by
  simp [act, h, d]

theorem act_false {s : State} {due : Bool} (d : due = false) (f : State → State) : act due f s = .next s := by
  simp [act, d]

/-- The queue of waiting commands stays when the act leaves it. -/
theorem act_pending {due : Bool} {f : State → State} {s : State} (h : (f s).pending = s.pending) :
    ∃ t, act due f s = .next t ∧ t.pending = s.pending := by
  unfold act
  split
  · exact ⟨_, rfl, by simp [h]⟩
  · exact ⟨_, rfl, rfl⟩

/-- The request asked for is carried out by its handler (R182). -/
theorem request_asks {s : State} {r : Req} {kind : Byte} {payload : List Byte} (h : s.asks r kind payload)
    {lengthOk : Nat → Bool} (l : lengthOk payload.length = true) (k : (kind == 0x19#8) = false) (f : Handler) :
    request kind lengthOk f s = .next ((f payload s).1.answered r (f payload s).2) := by
  obtain ⟨hr, hn, rfl, rfl⟩ := h
  unfold request
  rw [act_true hr]
  simp only [carryOut, hn, ne_eq, not_true_eq_false, if_false, l, if_true, k, State.answered]

/-- A request of the wrong length is answered BAD_LENGTH (R182). -/
theorem request_badLength {s : State} {r : Req} {kind : Byte} {payload : List Byte} (h : s.asks r kind payload)
    {lengthOk : Nat → Bool} (l : lengthOk payload.length = false) (f : Handler) :
    request kind lengthOk f s = .next (s.answered r [[0x02#8]]) := by
  obtain ⟨hr, hn, rfl, rfl⟩ := h
  unfold request
  rw [act_true hr]
  simp [carryOut, hn, l, State.answered, bare, ResultCode.byte]

section ReplyTo
variable (s : State) (r : Req) (seg : List (List Byte)) (b : Bool) (i k n z : Nat)

@[simp] theorem replyTo_sansPort : (replyTo r seg b s).sansPort = s.sansPort := rfl
@[simp] theorem replyTo_notices : (replyTo r seg b s).notices = s.notices := rfl
@[simp] theorem replyTo_pending : (replyTo r seg b s).pending = s.pending := rfl
@[simp] theorem answered_sansPort : (s.answered r seg).sansPort = s.sansPort := by simp [State.answered]
end ReplyTo

/-- Whatever a request does, it goes through its handler, and the port then answers. -/
theorem carryOut_cases (kind : Byte) (lengthOk : Nat → Bool) (f : Handler) (s : State) :
    carryOut kind lengthOk f s = s ∨
    (∃ r, s.nextRequest = some r ∧ r.kind = kind ∧ carryOut kind lengthOk f s = replyTo r (bare .badLength) false s) ∨
    (∃ r, s.nextRequest = some r ∧ r.kind = kind ∧ lengthOk r.payload.length = true
      ∧ carryOut kind lengthOk f s = replyTo r (f r.payload s).2 (kind == 0x19#8) (f r.payload s).1) := by
  unfold carryOut
  split
  · exact .inl rfl
  · rename_i r hr
    split
    · exact .inl rfl
    · rename_i hk
      have hk : r.kind = kind := by simpa using hk
      split
      · rename_i hl
        exact .inr (.inr ⟨r, hr, hk, hl, rfl⟩)
      · exact .inr (.inl ⟨r, hr, hk, rfl⟩)

/-- A request answers a next state. -/
theorem request_next (kind : Byte) (lengthOk : Nat → Bool) (f : Handler) (s : State) :
    ∃ t, request kind lengthOk f s = .next t
      ∧ (t = s ∨ t = arbiter s
        ∨ (∃ r, s.inReset = false ∧ s.nextRequest = some r ∧ t = arbiter (replyTo r (bare .badLength) false s))
        ∨ (∃ r, s.inReset = false ∧ s.nextRequest = some r
            ∧ t = arbiter (replyTo r (f r.payload s).2 (kind == 0x19#8) (f r.payload s).1))) := by
  unfold request act
  split
  · rename_i h
    have h : s.inReset = false := by simpa using h
    refine ⟨_, rfl, .inr ?_⟩
    rcases carryOut_cases kind lengthOk f s with e | ⟨r, hr, -, e⟩ | ⟨r, hr, -, -, e⟩
    · exact .inl (by rw [e])
    · exact .inr (.inl ⟨r, h, hr, by rw [e]⟩)
    · exact .inr (.inr ⟨r, h, hr, by rw [e]⟩)
  · exact ⟨_, rfl, .inl rfl⟩

/-- The first request not carried out, marked. -/
theorem markDone_append {before after : List Req} {r : Req} (h : ∀ q ∈ before, q.done = true) (d : r.done = false) :
    markDone (before ++ r :: after) = before ++ { r with done := true } :: after := by
  induction before with
  | nil => simp [markDone, d]
  | cons q qs ih =>
    have hq := h q (by simp)
    simp only [List.cons_append, markDone, hq, if_true]
    rw [ih fun x hx => h x (by simp [hx])]

end Sys2Proof.Machine
end

