-- ==== Sys2Proof/Laws/Accesses.lean ====
section
/-! SUPPORT. What an access of a request that takes several can do to a state (R22, R43, R46, R153, R182). -/

namespace Sys2Proof.Machine

/-! ## The work of the request being carried out -/

/-- The next request of a queue is the first not carried out, after those that are. -/
theorem queue_split {q : List Req} {r : Req} (h : q.find? (fun r => !r.done) = some r) :
    ∃ before after, q = before ++ r :: after ∧ (∀ x ∈ before, x.done = true) ∧ r.done = false := by
  obtain ⟨hr, before, after, e, hb⟩ := List.find?_eq_some_iff_append.1 h
  exact ⟨before, after, e, fun x hx => by simpa using hb x hx, by simpa using hr⟩

theorem markWork_append {before after : List Req} {r : Req} (w : Option Work) (h : ∀ q ∈ before, q.done = true) (d : r.done = false) :
    markWork w (before ++ r :: after) = before ++ { r with work := w } :: after := by
  induction before with
  | nil => simp [markWork, d]
  | cons q qs ih =>
    simp only [List.cons_append, markWork, h q (by simp), if_true]
    rw [ih fun x hx => h x (by simp [hx])]

@[simp] theorem markWork_markWork (w v : Option Work) (q : List Req) : markWork w (markWork v q) = markWork w q := by
  induction q with
  | nil => rfl
  | cons r rest ih => cases d : r.done <;> simp [markWork, d, ih]

@[simp] theorem markWork_length (w : Option Work) (q : List Req) : (markWork w q).length = q.length := by
  induction q with
  | nil => rfl
  | cons r rest ih => cases d : r.done <;> simp [markWork, d, ih]

section SetWork
variable (w v : Option Work) (s : State) (i k n z : Nat)

@[simp] theorem setWork_setWork : (s.setWork v).setWork w = s.setWork w := by simp [State.setWork]
@[simp] theorem setWork_helios : (s.setWork w).helios = s.helios := rfl
@[simp] theorem setWork_sup : (s.setWork w).sup = s.sup := rfl
@[simp] theorem setWork_notices : (s.setWork w).notices = s.notices := rfl
@[simp] theorem setWork_pending : (s.setWork w).pending = s.pending := rfl
@[simp] theorem setWork_inReset : (s.setWork w).inReset = s.inReset := rfl
@[simp] theorem setWork_sansPort : (s.setWork w).sansPort = s.sansPort := rfl
@[simp] theorem setWork_helio : (s.setWork w).helio i = s.helio i := rfl
@[simp] theorem setWork_modeBytes : (s.setWork w).modeBytes = s.modeBytes := rfl
@[simp] theorem setWork_nextOccupied : (s.setWork w).nextOccupied i = s.nextOccupied i := rfl
@[simp] theorem setWork_cursor : (s.setWork w).link.cursor = s.link.cursor := rfl
end SetWork

/-- The next request after its work has been set. -/
theorem nextRequest_setWork {s : State} {r : Req} (w : Option Work) (h : s.nextRequest = some r) :
    (s.setWork w).nextRequest = some { r with work := w } := by
  unfold State.nextRequest at h ⊢
  cases e : s.link.restarting
  · simp only [State.setWork, e, Bool.false_eq_true, if_false] at h ⊢
    obtain ⟨before, after, q, hb, hr⟩ := queue_split h
    rw [q, markWork_append w hb hr, List.find?_append]
    have : before.find? (fun r => !r.done) = none := by
      rw [List.find?_eq_none]; intro x hx; simp [hb x hx]
    simp [this, hr]
  · simp [e] at h

/-- A request that has no work left is left as it is. -/
theorem setWork_none {s : State} {r : Req} (h : s.nextRequest = some r) (n : r.work = none) : s.setWork none = s := by
  unfold State.nextRequest at h
  cases e : s.link.restarting
  · simp only [e, Bool.false_eq_true, if_false] at h
    obtain ⟨before, after, q, hb, hr⟩ := queue_split h
    unfold State.setWork
    rw [q, markWork_append none hb hr, ← n, ← q]
  · simp [e] at h

/-! ## One access -/

/-- What one access of a request can do (R182). -/
theorem carryOutAccess_cases (kind : Byte) (lengthOk : Nat → Bool) (first : List Byte → State → State × Served)
    (next : Work → State → State × Served) (s : State) :
    carryOutAccess kind lengthOk first next s = s ∨
    (∃ r, s.nextRequest = some r ∧ r.kind = kind
      ∧ carryOutAccess kind lengthOk first next s = replyTo r (bare .badLength) false s) ∨
    (∃ r, s.nextRequest = some r ∧ r.kind = kind ∧ lengthOk r.payload.length = true ∧ r.work = none
      ∧ carryOutAccess kind lengthOk first next s = serveAccess r (first r.payload s)) ∨
    (∃ r w, s.nextRequest = some r ∧ r.kind = kind ∧ lengthOk r.payload.length = true ∧ r.work = some w
      ∧ carryOutAccess kind lengthOk first next s = serveAccess r (next w s)) := by
  unfold carryOutAccess
  split
  · exact .inl rfl
  · rename_i r hr
    split
    · exact .inl rfl
    · rename_i hk
      have hk : r.kind = kind := by simpa using hk
      split
      · rename_i hl
        cases hw : r.work with
        | none => exact .inr (.inr (.inl ⟨r, hr, hk, hl, hw, rfl⟩))
        | some w => exact .inr (.inr (.inr ⟨r, w, hr, hk, hl, hw, rfl⟩))
      · exact .inr (.inl ⟨r, hr, hk, rfl⟩)

section Row
variable {s : State} {r : Req} {kind : Byte} {payload : List Byte} {lengthOk : Nat → Bool}
  {first : List Byte → State → State × Served}

/-- The first access of the request asked for. -/
theorem requestByAccess_first (h : s.asks r kind payload) (l : lengthOk payload.length = true) (n : r.work = none) :
    requestByAccess kind lengthOk first s = .next (arbiter (serveAccess r (first payload s))) := by
  obtain ⟨hr, hn, rfl, rfl⟩ := h
  unfold requestByAccess
  rw [act_true hr]
  simp only [carryOutAccess, hn, ne_eq, not_true_eq_false, if_false, l, if_true, n]

/-- A later access of the request asked for. -/
theorem requestByAccess_next {w : Work} (h : s.asks r kind payload) (l : lengthOk payload.length = true) (n : r.work = some w) :
    requestByAccess kind lengthOk first s = .next (arbiter (serveAccess r (serveWork w s))) := by
  obtain ⟨hr, hn, rfl, rfl⟩ := h
  unfold requestByAccess
  rw [act_true hr]
  simp only [carryOutAccess, hn, ne_eq, not_true_eq_false, if_false, l, if_true, n]

/-- A request of the wrong length is answered BAD_LENGTH (R182). -/
theorem requestByAccess_badLength (h : s.asks r kind payload) (l : lengthOk payload.length = false) :
    requestByAccess kind lengthOk first s = .next (s.answered r [[0x02#8]]) := by
  obtain ⟨hr, hn, rfl, rfl⟩ := h
  unfold requestByAccess
  rw [act_true hr]
  simp [carryOutAccess, hn, l, State.answered, bare, ResultCode.byte]

/-- The last access of a request answers it. -/
theorem serveAccess_last (t : State) (segments : List (List Byte)) :
    arbiter (serveAccess r (t, .last segments)) = (t.setWork none).answered r segments := rfl

/-- An access that is not the last leaves work. -/
theorem serveAccess_more (t : State) (w : Work) : serveAccess r (t, .more w) = t.setWork (some w) := rfl

end Row

/-! ## What an access leaves alone -/

/-- An access of a request writes heliostat records and the port alone. -/
theorem serveWork_eq (w : Work) (s : State) : ∃ hs c, (serveWork w s).1 = { s with helios := hs, link := { s.link with cursor := c } } := by
  cases w with
  | read first left entries =>
    simp only [serveWork, readRecord]
    split
    · exact ⟨_, _, rfl⟩
    · exact ⟨_, _, rfl⟩
  | release i => exact ⟨_, _, rfl⟩
  | halt i =>
    simp only [serveWork, haltRecord]
    split
    · exact ⟨_, _, rfl⟩
    · exact ⟨_, _, rfl⟩

/-- The queue of waiting commands stays through an access. -/
@[simp] theorem serveAccess_pending (r : Req) (p : State × Served) : (serveAccess r p).pending = p.1.pending := by
  unfold serveAccess; split <;> rfl

end Sys2Proof.Machine
end

