-- ==== Sys2Proof/Laws/Aiming.lean ====
section
/-! SUPPORT. Clamping and the targets of a class (R21, R31, R36). -/

namespace Sys2Proof.Machine

/-- Clamping as maximum and minimum. -/
theorem clampInt_eq (lo hi v : Int) (h : lo ≤ hi) : clampInt lo hi v = max lo (min hi v) := by
  unfold clampInt; split <;> (try split) <;> omega

theorem clampNat_eq (lo hi v : Nat) (h : lo ≤ hi) : clampNat lo hi v = max lo (min hi v) := by
  unfold clampNat; split <;> (try split) <;> omega

theorem clampInt_mem {lo hi : Int} (v : Int) (h : lo ≤ hi) : lo ≤ clampInt lo hi v ∧ clampInt lo hi v ≤ hi := by
  unfold clampInt; split <;> (try split) <;> omega

theorem clampNat_mem {lo hi : Nat} (v : Nat) (h : lo ≤ hi) : lo ≤ clampNat lo hi v ∧ clampNat lo hi v ≤ hi := by
  unfold clampNat; split <;> (try split) <;> omega

@[simp] theorem stowTarget_kind (c : DriveClass) : (stowTarget c).kind = .stow := rfl

@[simp] theorem defocusTarget_kind (c : DriveClass) (h : Helio) : (defocusTarget c h).kind = .defocus := by
  unfold defocusTarget; split <;> rfl

@[simp] theorem clampTo_kind (c : DriveClass) (t : Target) : (t.clampTo c).kind = t.kind := rfl

end Sys2Proof.Machine
end

