-- ==== Sys2Proof/Laws/Exceptions.lean ====
section
/-! SUPPORT. What an exception occurrence, a notice and a change of masks can do to a state (R168 to R172, R177, R178). -/

namespace Sys2Proof.Machine

/-- Every bit of the flag set belongs to a kind. -/
theorem exists_kind : ∀ n < 16, ∃ k : ExcKind, k.code = n := by
  intro n hn
  interval_cases n
  exacts [⟨.driveFault, rfl⟩, ⟨.driveLost, rfl⟩, ⟨.lag, rfl⟩, ⟨.aimMiss, rfl⟩, ⟨.aimDenied, rfl⟩, ⟨.geometry, rfl⟩, ⟨.travel, rfl⟩,
    ⟨.flux, rfl⟩, ⟨.staleSun, rfl⟩, ⟨.sunLow, rfl⟩, ⟨.windStow, rfl⟩, ⟨.lineStow, rfl⟩, ⟨.permitDrop, rfl⟩, ⟨.linkSilent, rfl⟩,
    ⟨.sweepOverrun, rfl⟩, ⟨.dniSensor, rfl⟩]

/-- The ALERT level: some flag set whose kind is unmasked (R171). -/
theorem alertLevel_iff (flags masks : BitVec 16) :
    alertLevel flags masks = true ↔ ∃ k : ExcKind, flags.getLsbD k.code = true ∧ masks.getLsbD k.code = false := by
  unfold alertLevel
  rw [decide_eq_true_iff]
  constructor
  · intro h
    by_contra c
    push Not at c
    apply h
    apply BitVec.eq_of_getLsbD_eq
    intro i hi
    obtain ⟨k, rfl⟩ := exists_kind i hi
    have ck := c k
    have hk : k.code < 16 := hi
    simp only [BitVec.getLsbD_and, BitVec.getLsbD_not, hk, decide_true, Bool.true_and, BitVec.getLsbD_zero]
    cases hf : flags.getLsbD k.code
    · rfl
    · simp [ck hf]
  · rintro ⟨k, hf, hm⟩ e
    have hk : k.code < 16 := by cases k <;> decide
    have := congrArg (fun b => b.getLsbD k.code) e
    simp only [BitVec.getLsbD_and, BitVec.getLsbD_not, hf, hm, hk, BitVec.getLsbD_zero] at this
    simp at this

/-! ## Sets of notice sources -/

/-- The place of a source's bit (Table 10-4, Notice set). -/
def NoticeSrc.place : NoticeSrc → Nat
  | .alert => 0 | .mode => 1 | .wind => 2 | .miss => 3 | .drained => 4 | .quiet => 5

theorem inSet_eq (a : BitVec 6) (src : NoticeSrc) : inSet a src = a.getLsbD src.place := by
  revert a; cases src <;> decide +kernel

theorem inSet_or (a b : BitVec 6) (src : NoticeSrc) : inSet (a ||| b) src = (inSet a src || inSet b src) := by
  simp [inSet_eq]

theorem inSet_and (a b : BitVec 6) (src : NoticeSrc) : inSet (a &&& b) src = (inSet a src && inSet b src) := by
  simp [inSet_eq]

theorem inSet_not (a : BitVec 6) (src : NoticeSrc) : inSet (~~~a) src = !inSet a src := by
  cases src <;> simp [inSet_eq, NoticeSrc.place]

theorem inSet_bit (a b : NoticeSrc) : inSet a.bit b = decide (a = b) := by cases a <;> cases b <;> decide

/-- A source raised is pending, and every source that was stays so (R177). -/
theorem raise_pend (src b : NoticeSrc) (n : Notices) : inSet (n.raise src).pend b = (inSet n.pend b || decide (src = b)) := by
  unfold Notices.raise
  split
  · rename_i h
    by_cases e : src = b
    · subst e; simp [h]
    · simp [e]
  · simp [inSet_or, inSet_bit]

/-! ## setExc, notice, raiseField -/

/-- Flags and masks changed: the exception unit takes them with the level they give, and the notices can only gain ALERT. -/
theorem setExc_eq (e : Exc) (s : State) : ∃ n, setExc e s = { s with exc := { e with alert := alertLevel e.flags e.masks }, notices := n }
    ∧ (n = s.notices ∨ n = s.notices.raise .alert) := by
  unfold setExc
  dsimp only
  split
  · exact ⟨_, rfl, .inr rfl⟩
  · exact ⟨_, rfl, .inl rfl⟩

/-- The exception unit after an occurrence keeps its masks, and gains the flag. -/
theorem record_flags (e : Exc) (k : ExcKind) (now : Nat) (h z c : Option Nat) :
    (e.record k now h z c).flags = e.flags ||| k.bit ∧ (e.record k now h z c).masks = e.masks := by
  unfold Exc.record; dsimp only; split <;> exact ⟨rfl, rfl⟩

/-- An occurrence of a field kind writes the exception unit and the notices alone. -/
theorem raiseField_eq (k : ExcKind) (s : State) : ∃ e n, raiseField k s = { s with exc := e, notices := n }
    ∧ e.flags = s.exc.flags ||| k.bit ∧ e.masks = s.exc.masks ∧ e.alert = alertLevel e.flags e.masks
    ∧ (n = s.notices ∨ n = s.notices.raise .alert) := by
  obtain ⟨n, h, hn⟩ := setExc_eq (s.exc.record k s.sup.plantTime none none none) s
  obtain ⟨hf, hm⟩ := record_flags s.exc k s.sup.plantTime none none none
  exact ⟨_, n, h, hf, hm, rfl, hn⟩

/-- An occurrence for a heliostat also writes its last exception kind and its latch (R168, R170). -/
theorem raiseHelio_eq (k : ExcKind) (i : Nat) (z c : Option Nat) (s : State) : ∃ e n,
    raiseHelio k i z c s = { s.setHelio i ((s.helio i).recordExc k (s.exc.masked k)) with exc := e, notices := n }
    ∧ e.flags = s.exc.flags ||| k.bit ∧ e.masks = s.exc.masks ∧ e.alert = alertLevel e.flags e.masks
    ∧ (n = s.notices ∨ n = s.notices.raise .alert) := by
  obtain ⟨n, h, hn⟩ := setExc_eq (s.exc.record k s.sup.plantTime (some i) z c) (s.setHelio i ((s.helio i).recordExc k (s.exc.masked k)))
  obtain ⟨hf, hm⟩ := record_flags s.exc k s.sup.plantTime (some i) z c
  exact ⟨_, n, h, hf, hm, rfl, hn⟩

section Frames
variable (k : ExcKind) (i j : Nat) (z c : Option Nat) (s : State) (src : NoticeSrc) (m n : Nat)

@[simp] theorem notice_helios : (notice src s).helios = s.helios := rfl
@[simp] theorem notice_classes : (notice src s).classes = s.classes := rfl
@[simp] theorem notice_standbys : (notice src s).standbys = s.standbys := rfl
@[simp] theorem notice_entries : (notice src s).entries = s.entries := rfl
@[simp] theorem notice_drained : (notice src s).drained = s.drained := rfl
@[simp] theorem notice_zones : (notice src s).zones = s.zones := rfl
@[simp] theorem notice_sweep : (notice src s).sweep = s.sweep := rfl
@[simp] theorem notice_lines : (notice src s).lines = s.lines := rfl
@[simp] theorem notice_weather : (notice src s).weather = s.weather := rfl
@[simp] theorem notice_sup : (notice src s).sup = s.sup := rfl
@[simp] theorem notice_limits : (notice src s).limits = s.limits := rfl
@[simp] theorem notice_exc : (notice src s).exc = s.exc := rfl
@[simp] theorem notice_link : (notice src s).link = s.link := rfl
@[simp] theorem notice_inReset : (notice src s).inReset = s.inReset := rfl
@[simp] theorem notice_pending : (notice src s).pending = s.pending := rfl
@[simp] theorem notice_notices : (notice src s).notices = s.notices.raise src := rfl
@[simp] theorem notice_helio : (notice src s).helio i = s.helio i := rfl
@[simp] theorem notice_entry : (notice src s).entry i = s.entry i := rfl
@[simp] theorem notice_zone : (notice src s).zone i = s.zone i := rfl
@[simp] theorem notice_line : (notice src s).line i = s.line i := rfl
@[simp] theorem notice_sansPort : (notice src s).sansPort = s.sansPort := rfl

@[simp] theorem raiseField_helios : (raiseField k s).helios = s.helios := rfl
@[simp] theorem raiseField_classes : (raiseField k s).classes = s.classes := rfl
@[simp] theorem raiseField_standbys : (raiseField k s).standbys = s.standbys := rfl
@[simp] theorem raiseField_entries : (raiseField k s).entries = s.entries := rfl
@[simp] theorem raiseField_drained : (raiseField k s).drained = s.drained := rfl
@[simp] theorem raiseField_zones : (raiseField k s).zones = s.zones := rfl
@[simp] theorem raiseField_sweep : (raiseField k s).sweep = s.sweep := rfl
@[simp] theorem raiseField_lines : (raiseField k s).lines = s.lines := rfl
@[simp] theorem raiseField_weather : (raiseField k s).weather = s.weather := rfl
@[simp] theorem raiseField_sup : (raiseField k s).sup = s.sup := rfl
@[simp] theorem raiseField_limits : (raiseField k s).limits = s.limits := rfl
@[simp] theorem raiseField_link : (raiseField k s).link = s.link := rfl
@[simp] theorem raiseField_inReset : (raiseField k s).inReset = s.inReset := rfl
@[simp] theorem raiseField_pending : (raiseField k s).pending = s.pending := rfl
@[simp] theorem raiseField_helio : (raiseField k s).helio i = s.helio i := rfl
@[simp] theorem raiseField_entry : (raiseField k s).entry i = s.entry i := rfl
@[simp] theorem raiseField_zone : (raiseField k s).zone i = s.zone i := rfl
@[simp] theorem raiseField_line : (raiseField k s).line i = s.line i := rfl
@[simp] theorem raiseField_masks : (raiseField k s).exc.masks = s.exc.masks := (record_flags ..).2
@[simp] theorem raiseField_flags : (raiseField k s).exc.flags = s.exc.flags ||| k.bit := (record_flags ..).1

@[simp] theorem raiseHelio_classes : (raiseHelio k i z c s).classes = s.classes := rfl
@[simp] theorem raiseHelio_standbys : (raiseHelio k i z c s).standbys = s.standbys := rfl
@[simp] theorem raiseHelio_entries : (raiseHelio k i z c s).entries = s.entries := rfl
@[simp] theorem raiseHelio_drained : (raiseHelio k i z c s).drained = s.drained := rfl
@[simp] theorem raiseHelio_zones : (raiseHelio k i z c s).zones = s.zones := rfl
@[simp] theorem raiseHelio_sweep : (raiseHelio k i z c s).sweep = s.sweep := rfl
@[simp] theorem raiseHelio_lines : (raiseHelio k i z c s).lines = s.lines := rfl
@[simp] theorem raiseHelio_weather : (raiseHelio k i z c s).weather = s.weather := rfl
@[simp] theorem raiseHelio_sup : (raiseHelio k i z c s).sup = s.sup := rfl
@[simp] theorem raiseHelio_limits : (raiseHelio k i z c s).limits = s.limits := rfl
@[simp] theorem raiseHelio_link : (raiseHelio k i z c s).link = s.link := rfl
@[simp] theorem raiseHelio_inReset : (raiseHelio k i z c s).inReset = s.inReset := rfl
@[simp] theorem raiseHelio_pending : (raiseHelio k i z c s).pending = s.pending := rfl
@[simp] theorem raiseHelio_entry : (raiseHelio k i z c s).entry m = s.entry m := rfl
@[simp] theorem raiseHelio_zone : (raiseHelio k i z c s).zone m = s.zone m := rfl
@[simp] theorem raiseHelio_line : (raiseHelio k i z c s).line m = s.line m := rfl
@[simp] theorem raiseHelio_driveClass : (raiseHelio k i z c s).driveClass m = s.driveClass m := rfl
@[simp] theorem raiseHelio_masks : (raiseHelio k i z c s).exc.masks = s.exc.masks := (record_flags ..).2
@[simp] theorem raiseHelio_flags : (raiseHelio k i z c s).exc.flags = s.exc.flags ||| k.bit := (record_flags ..).1

/-- The record of the heliostat an occurrence is for. -/
theorem raiseHelio_helio : (raiseHelio k i z c s).helio j =
    if i = j ∧ i < Config.nHelio then (s.helio i).recordExc k (s.exc.masked k) else s.helio j := helio_setHelio s i j _

end Frames

end Sys2Proof.Machine
end

