-- ==== Sys2Proof/Laws/Ops.lean ====
section
/-! SUPPORT. What the shared operations on records, zones and slots can do to a state (R33 to R36, R73 to R85, R58, R61). -/

namespace Sys2Proof.Machine

/-- The amount a list of reservations holds in a zone. -/
def amountIn (z : Nat) (rs : List Reservation) : Nat := ((rs.filter (·.zone = z)).map (·.amount)).sum

/-- How many of a list of reservations name a slot. -/
def namesOf (k : Nat) (rs : List Reservation) : Nat := (rs.filter (·.slot = k)).length

theorem amountIn_append (z : Nat) (a b : List Reservation) : amountIn z (a ++ b) = amountIn z a + amountIn z b := by
  simp [amountIn]

theorem namesOf_append (k : Nat) (a b : List Reservation) : namesOf k (a ++ b) = namesOf k a + namesOf k b := by
  simp [namesOf]

@[simp] theorem amountIn_nil (z : Nat) : amountIn z [] = 0 := rfl
@[simp] theorem namesOf_nil (k : Nat) : namesOf k [] = 0 := rfl

theorem amountIn_one (z : Nat) (r : Reservation) : amountIn z [r] = if r.zone = z then r.amount else 0 := by
  unfold amountIn; split <;> simp [*]

theorem namesOf_one (k : Nat) (r : Reservation) : namesOf k [r] = if r.slot = k then 1 else 0 := by
  unfold namesOf; split <;> simp [*]

/-! ## Zones -/

section Zones
variable (s : State) (i j k n z : Nat) (r : Option Reservation)

theorem addLeaving_eq : ∃ zs, addLeaving r s = { s with zones := zs } := by
  unfold addLeaving; split <;> exact ⟨_, rfl⟩

@[simp] theorem addLeaving_helios : (addLeaving r s).helios = s.helios := by obtain ⟨_, e⟩ := addLeaving_eq s r; rw [e]
@[simp] theorem addLeaving_helio : (addLeaving r s).helio i = s.helio i := by simp [State.helio]
@[simp] theorem addLeaving_classes : (addLeaving r s).classes = s.classes := by obtain ⟨_, e⟩ := addLeaving_eq s r; rw [e]
@[simp] theorem addLeaving_entries : (addLeaving r s).entries = s.entries := by obtain ⟨_, e⟩ := addLeaving_eq s r; rw [e]
@[simp] theorem addLeaving_rest : { addLeaving r s with zones := s.zones } = s := by obtain ⟨_, e⟩ := addLeaving_eq s r; rw [e]

/-- A reservation's amount enters the leaving sum of its zone. -/
theorem addLeaving_zone (h : z < Config.nZone) :
    (addLeaving r s).zone z = { s.zone z with leaving := (s.zone z).leaving + amountIn z r.toList } := by
  unfold addLeaving
  split
  · simp
  · rename_i r
    rw [zone_setZone]
    simp only [Option.toList_some, amountIn_one]
    by_cases e : r.zone = z
    · subst e; simp [h]
    · simp [e]

/-- Entry into LEAVING (R81): a holder's state and lag count, and the leaving sums; any other record is left as it is. -/
theorem enterLeaving_of_holder (h : (s.helio i).holder = true) :
    enterLeaving i s = addLeaving (s.helio i).transfer (addLeaving (s.helio i).primary
      (s.setHelio i { s.helio i with st := .leaving, lag := 0 })) := by
  have e : (s.helio i).toState .leaving = { s.helio i with st := .leaving, lag := 0 } := by
    rw [toState_eq, if_neg]; intro c; simp [Helio.holder, c] at h
  simp [enterLeaving, h, e]

theorem enterLeaving_of_not (h : (s.helio i).holder = false) : enterLeaving i s = s := by simp [enterLeaving, h]

theorem holder_lt (h : (s.helio i).holder = true) : i < Config.nHelio :=
  lt_of_not_vacant s i (by intro c; simp [Helio.holder, c] at h)

theorem occupied_lt (h : (s.helio i).occupied = true) : i < Config.nHelio :=
  lt_of_not_vacant s i (by simpa [Helio.occupied] using h)

theorem enterLeaving_eq : ∃ hs zs, enterLeaving i s = { s with helios := hs, zones := zs } := by
  cases h : (s.helio i).holder
  · exact ⟨_, _, enterLeaving_of_not s i h⟩
  · rw [enterLeaving_of_holder s i h]
    obtain ⟨a, ea⟩ := addLeaving_eq (s.setHelio i { s.helio i with st := .leaving, lag := 0 }) (s.helio i).primary
    rw [ea]
    obtain ⟨b, eb⟩ := addLeaving_eq { (s.setHelio i { s.helio i with st := .leaving, lag := 0 }) with zones := a } (s.helio i).transfer
    rw [eb]
    exact ⟨_, _, rfl⟩

/-- The record after entry into LEAVING. -/
theorem enterLeaving_helio : (enterLeaving i s).helio j =
    if i = j ∧ (s.helio i).holder = true then { s.helio i with st := .leaving, lag := 0 } else s.helio j := by
  cases h : (s.helio i).holder
  · simp [enterLeaving_of_not s i h]
  · have b := holder_lt s i h
    rw [enterLeaving_of_holder s i h]
    simp [helio_setHelio, b]

/-- The zones after entry into LEAVING: the amounts held enter the leaving sums. -/
theorem enterLeaving_zone (b : z < Config.nZone) : (enterLeaving i s).zone z = { s.zone z with
    leaving := (s.zone z).leaving + if (s.helio i).holder then amountIn z (s.helio i).claims else 0 } := by
  cases h : (s.helio i).holder
  · simp [enterLeaving_of_not s i h]
  · rw [enterLeaving_of_holder s i h, addLeaving_zone _ _ _ b, addLeaving_zone _ _ _ b]
    simp [Helio.claims, amountIn_append, Nat.add_assoc]

@[simp] theorem enterLeaving_classes : (enterLeaving i s).classes = s.classes := by obtain ⟨_, _, e⟩ := enterLeaving_eq s i; rw [e]
@[simp] theorem enterLeaving_entries : (enterLeaving i s).entries = s.entries := by obtain ⟨_, _, e⟩ := enterLeaving_eq s i; rw [e]
@[simp] theorem enterLeaving_sweep : (enterLeaving i s).sweep = s.sweep := by obtain ⟨_, _, e⟩ := enterLeaving_eq s i; rw [e]
@[simp] theorem enterLeaving_standbys : (enterLeaving i s).standbys = s.standbys := by obtain ⟨_, _, e⟩ := enterLeaving_eq s i; rw [e]
@[simp] theorem enterLeaving_lines : (enterLeaving i s).lines = s.lines := by obtain ⟨_, _, e⟩ := enterLeaving_eq s i; rw [e]
@[simp] theorem enterLeaving_sup : (enterLeaving i s).sup = s.sup := by obtain ⟨_, _, e⟩ := enterLeaving_eq s i; rw [e]
@[simp] theorem enterLeaving_exc : (enterLeaving i s).exc = s.exc := by obtain ⟨_, _, e⟩ := enterLeaving_eq s i; rw [e]
@[simp] theorem enterLeaving_notices : (enterLeaving i s).notices = s.notices := by obtain ⟨_, _, e⟩ := enterLeaving_eq s i; rw [e]
@[simp] theorem enterLeaving_link : (enterLeaving i s).link = s.link := by obtain ⟨_, _, e⟩ := enterLeaving_eq s i; rw [e]
@[simp] theorem enterLeaving_weather : (enterLeaving i s).weather = s.weather := by obtain ⟨_, _, e⟩ := enterLeaving_eq s i; rw [e]
@[simp] theorem enterLeaving_limits : (enterLeaving i s).limits = s.limits := by obtain ⟨_, _, e⟩ := enterLeaving_eq s i; rw [e]
@[simp] theorem enterLeaving_drained : (enterLeaving i s).drained = s.drained := by obtain ⟨_, _, e⟩ := enterLeaving_eq s i; rw [e]
@[simp] theorem enterLeaving_pending : (enterLeaving i s).pending = s.pending := by obtain ⟨_, _, e⟩ := enterLeaving_eq s i; rw [e]
@[simp] theorem enterLeaving_inReset : (enterLeaving i s).inReset = s.inReset := by obtain ⟨_, _, e⟩ := enterLeaving_eq s i; rw [e]
@[simp] theorem enterLeaving_driveClass : (enterLeaving i s).driveClass n = s.driveClass n := by simp [State.driveClass]
end Zones

/-! ## Posting -/

section Posting
variable (s : State) (i j k n z : Nat) (t : Target)

/-- An offer writes one pending target (R33 to R35). -/
theorem offer_eq : ∃ hs, offer i t s = { s with helios := hs } := by
  unfold offer; split <;> exact ⟨_, rfl⟩

@[simp] theorem offer_classes : (offer i t s).classes = s.classes := by obtain ⟨_, e⟩ := offer_eq s i t; rw [e]
@[simp] theorem offer_standbys : (offer i t s).standbys = s.standbys := by obtain ⟨_, e⟩ := offer_eq s i t; rw [e]
@[simp] theorem offer_entries : (offer i t s).entries = s.entries := by obtain ⟨_, e⟩ := offer_eq s i t; rw [e]
@[simp] theorem offer_drained : (offer i t s).drained = s.drained := by obtain ⟨_, e⟩ := offer_eq s i t; rw [e]
@[simp] theorem offer_zones : (offer i t s).zones = s.zones := by obtain ⟨_, e⟩ := offer_eq s i t; rw [e]
@[simp] theorem offer_sweep : (offer i t s).sweep = s.sweep := by obtain ⟨_, e⟩ := offer_eq s i t; rw [e]
@[simp] theorem offer_lines : (offer i t s).lines = s.lines := by obtain ⟨_, e⟩ := offer_eq s i t; rw [e]
@[simp] theorem offer_weather : (offer i t s).weather = s.weather := by obtain ⟨_, e⟩ := offer_eq s i t; rw [e]
@[simp] theorem offer_sup : (offer i t s).sup = s.sup := by obtain ⟨_, e⟩ := offer_eq s i t; rw [e]
@[simp] theorem offer_limits : (offer i t s).limits = s.limits := by obtain ⟨_, e⟩ := offer_eq s i t; rw [e]
@[simp] theorem offer_exc : (offer i t s).exc = s.exc := by obtain ⟨_, e⟩ := offer_eq s i t; rw [e]
@[simp] theorem offer_notices : (offer i t s).notices = s.notices := by obtain ⟨_, e⟩ := offer_eq s i t; rw [e]
@[simp] theorem offer_link : (offer i t s).link = s.link := by obtain ⟨_, e⟩ := offer_eq s i t; rw [e]
@[simp] theorem offer_inReset : (offer i t s).inReset = s.inReset := by obtain ⟨_, e⟩ := offer_eq s i t; rw [e]
@[simp] theorem offer_pending : (offer i t s).pending = s.pending := by obtain ⟨_, e⟩ := offer_eq s i t; rw [e]
@[simp] theorem offer_entry : (offer i t s).entry k = s.entry k := by simp [State.entry]
@[simp] theorem offer_zone : (offer i t s).zone z = s.zone z := by simp [State.zone]
@[simp] theorem offer_line : (offer i t s).line n = s.line n := by simp [State.line]
@[simp] theorem offer_driveClass : (offer i t s).driveClass n = s.driveClass n := by simp [State.driveClass]

/-- The records after an offer. -/
theorem offer_helio : (offer i t s).helio j =
    if i = j ∧ (s.helio i).occupied = true then (s.helio i).post (s.classOf i).deadband t else s.helio j := by
  unfold offer
  by_cases o : (s.helio i).occupied = true
  · have b := occupied_lt s i o
    simp [o, helio_setHelio, b]
  · simp [o]

@[simp] theorem offer_helio_ne (h : j ≠ i) : (offer i t s).helio j = s.helio j := by
  rw [offer_helio, if_neg]; rintro ⟨rfl, _⟩; exact h rfl

/-- An offer changes a record's pending target alone. -/
theorem offer_helio_pending : (offer i t s).helio j = { s.helio j with pendingT := ((offer i t s).helio j).pendingT } := by
  rw [offer_helio]
  split
  · rename_i h; obtain ⟨rfl, _⟩ := h; exact post_eq _ _ _
  · rfl
end Posting

/-! ## User counts -/

section Users
variable (s : State) (i j k m n z : Nat)

theorem decUser_eq : ∃ es d ns, decUser k s = { s with entries := es, drained := d, notices := ns } := by
  unfold decUser; dsimp only; split
  · exact ⟨_, _, _, rfl⟩
  · exact ⟨_, _, _, rfl⟩

/-- A slot after one reservation ceased to name it (R58, R61). -/
theorem decUser_entry : (decUser k s).entry m = if k = m ∧ k < Config.nSlot then
    { s.entry k with users := (s.entry k).users - 1, st :=
      if (s.entry k).st = .draining ∧ (s.entry k).users - 1 = 0 then .free else (s.entry k).st } else s.entry m := by
  unfold decUser; dsimp only; split
  · rename_i h
    change (s.setEntry k _).entry m = _
    rw [entry_setEntry]
    split <;> simp [h.2]
  · rename_i h
    rw [entry_setEntry]

/-- A slot that this frees is in the drained list, and DRAINED is pending (R61, R62). -/
theorem decUser_freed (h : (s.entry k).st = .draining) (u : (s.entry k).users - 1 = 0) :
    k ∈ (decUser k s).drained ∧ inSet (decUser k s).notices.pend .drained = true := by
  unfold decUser; dsimp only
  rw [if_pos ⟨h, u⟩]
  refine ⟨?_, by simp [raise_pend]⟩
  simp only [notice_drained]
  split
  · assumption
  · simp

@[simp] theorem decUser_helios : (decUser k s).helios = s.helios := by obtain ⟨_, _, _, e⟩ := decUser_eq s k; rw [e]
@[simp] theorem decUser_zones : (decUser k s).zones = s.zones := by obtain ⟨_, _, _, e⟩ := decUser_eq s k; rw [e]
@[simp] theorem decUser_helio : (decUser k s).helio i = s.helio i := by simp [State.helio]
@[simp] theorem decUser_zone : (decUser k s).zone z = s.zone z := by simp [State.zone]

/-- A slot after one reservation came to name it (R58). -/
theorem incUser_entry : (incUser k s).entry m = if k = m ∧ k < Config.nSlot then
    { s.entry k with users := (s.entry k).users + 1 } else s.entry m := entry_setEntry _ _ _ _

@[simp] theorem incUser_helio : (incUser k s).helio i = s.helio i := rfl
@[simp] theorem incUser_zone : (incUser k s).zone z = s.zone z := rfl
@[simp] theorem incUser_helios : (incUser k s).helios = s.helios := rfl
@[simp] theorem incUser_zones : (incUser k s).zones = s.zones := rfl
end Users

/-! ## Release (R83 to R85) -/

section Release
variable (s : State) (fl : Bool) (r : Option Reservation) (i j k z : Nat)

theorem releaseSums_eq : ∃ zs es d ns, releaseSums fl r s = { s with zones := zs, entries := es, drained := d, notices := ns } := by
  unfold releaseSums
  split
  · exact ⟨_, _, _, _, rfl⟩
  · dsimp only
    rename_i r
    obtain ⟨es, d, ns, e⟩ := decUser_eq (s.setZone r.zone { s.zone r.zone with
      committed := (s.zone r.zone).committed - r.amount
      leaving := if fl then (s.zone r.zone).leaving - r.amount else (s.zone r.zone).leaving }) r.slot
    rw [e]
    exact ⟨_, _, _, _, rfl⟩

@[simp] theorem releaseSums_helios : (releaseSums fl r s).helios = s.helios := by obtain ⟨_, _, _, _, e⟩ := releaseSums_eq s fl r; rw [e]
@[simp] theorem releaseSums_helio : (releaseSums fl r s).helio i = s.helio i := by simp [State.helio]

/-- The zones after a release. -/
theorem releaseSums_zone (b : z < Config.nZone) : (releaseSums fl r s).zone z = { s.zone z with
    committed := (s.zone z).committed - amountIn z r.toList
    leaving := (s.zone z).leaving - if fl then amountIn z r.toList else 0 } := by
  unfold releaseSums
  split
  · simp
  · rename_i r
    simp only [decUser_zone, zone_setZone, Option.toList_some, amountIn_one]
    by_cases e : r.zone = z
    · subst e; cases fl <;> simp [b]
    · simp [e]

/-- The slots after a release: user counts fall, and a slot only ever goes from DRAINING to FREE. -/
theorem releaseSums_entry (b : k < Config.nSlot) :
    ((releaseSums fl r s).entry k).users = (s.entry k).users - namesOf k r.toList
    ∧ (((releaseSums fl r s).entry k).st ≠ (s.entry k).st → (s.entry k).st = .draining
        ∧ ((releaseSums fl r s).entry k).st = .free ∧ ((releaseSums fl r s).entry k).users = 0
        ∧ k ∈ (releaseSums fl r s).drained ∧ inSet (releaseSums fl r s).notices.pend .drained = true) := by
  unfold releaseSums
  split
  · simp
  · rename_i r
    dsimp only
    generalize hs : s.setZone r.zone _ = s1
    have he : ∀ m, s1.entry m = s.entry m := by intro m; subst hs; rfl
    simp only [decUser_entry, he, Option.toList_some, namesOf_one]
    by_cases e : r.slot = k
    · subst e
      simp only [b, and_self, if_true]
      refine ⟨trivial, ?_⟩
      split
      · rename_i c
        intro _
        have f := decUser_freed s1 r.slot (by rw [he]; exact c.1) (by rw [he]; exact c.2)
        exact ⟨c.1, rfl, c.2, f.1, f.2⟩
      · intro h; exact absurd rfl h
    · simp [e]

/-- A release of every reservation of a record (R84). -/
theorem releaseAll_eq : ∃ zs es d ns, releaseAll i s =
    { s.setHelio i { s.helio i with st := .clear, lag := if (s.helio i).st = .clear then (s.helio i).lag else 0, primary := none, transfer := none } with
      zones := zs, entries := es, drained := d, notices := ns } := by
  unfold releaseAll
  dsimp only
  rw [toState_eq]
  dsimp only
  generalize hs : s.setHelio i _ = s1
  obtain ⟨_, _, _, _, e1⟩ := releaseSums_eq s1 true (s.helio i).primary
  rw [e1]
  obtain ⟨_, _, _, _, e2⟩ := releaseSums_eq _ true (s.helio i).transfer
  rw [e2]
  exact ⟨_, _, _, _, rfl⟩

/-- The zones after it. -/
theorem releaseAll_zone (b : z < Config.nZone) : (releaseAll i s).zone z = { s.zone z with
    committed := (s.zone z).committed - amountIn z (s.helio i).claims
    leaving := (s.zone z).leaving - amountIn z (s.helio i).claims } := by
  unfold releaseAll
  dsimp only
  rw [releaseSums_zone _ _ _ _ b, releaseSums_zone _ _ _ _ b]
  simp [Helio.claims, amountIn_append, Nat.sub_sub]

end Release

end Sys2Proof.Machine
end

