-- ==== Sys2Proof/Laws/Modes.lean ====
section
/-! SUPPORT. What a change of field mode, the stow test, the permit and a sweep start can do to a state (R90 to R94, R151, R154, R156,
R159, R160, R162). -/

namespace Sys2Proof.Machine

/-- A change of the field mode, in one equation (R90, R91, R151). -/
theorem setMode_ne {m : Mode} {s : State} (h : s.sup.mode ≠ m) : setMode m s = { s with
    sup := { s.sup with mode := m }
    sweep := if s.sup.mode = .tracking then { s.sweep with timer := .stopped, startWaiting := false } else s.sweep
    notices := s.notices.raise .mode } := by
  unfold setMode; rw [if_neg h]; rfl

/-- A source that is pending is not raised again. -/
theorem raise_of_pend {src : NoticeSrc} {n : Notices} (h : inSet n.pend src = true) : n.raise src = n := by
  unfold Notices.raise; rw [if_pos h]

/-- Raising a source twice is raising it once. -/
theorem raise_idem (src : NoticeSrc) (n : Notices) : (n.raise src).raise src = n.raise src :=
  raise_of_pend (by simp [raise_pend])

/-- The stow test moves the mode between STOWING and STOWED, and does nothing elsewhere (R156). -/
theorem stowTest_eq (s : State) : stowTest s =
    if s.sup.mode = .stowing ∧ s.sup.stowPass = none ∧ s.stowHolds = true then
      { s with sup := { s.sup with mode := .stowed }, notices := s.notices.raise .mode }
    else if s.sup.mode = .stowed ∧ s.stowHolds = false then
      { s with sup := { s.sup with mode := .stowing }, notices := s.notices.raise .mode }
    else s := by
  cases h : s.sup.mode <;> simp only [stowTest, h, reduceCtorEq, false_and, if_false, true_and]
  · by_cases c : s.sup.stowPass = none ∧ s.stowHolds = true
    · rw [if_pos c, if_pos (by simp [c.1, c.2]), setMode_ne (by simp [h])]; simp [h]
    · rw [if_neg c, if_neg (by simpa using c)]
  · cases c : s.stowHolds
    · simp only [Bool.false_eq_true, if_false, if_true]; rw [setMode_ne (by simp [h])]; simp [h]
    · simp

/-- The stow test writes the mode and the notices alone. -/
theorem stowTest_cases (s : State) : stowTest s = s
    ∨ ∃ m, stowTest s = { s with sup := { s.sup with mode := m }, notices := s.notices.raise .mode }
      ∧ (m = .stowed ∧ s.sup.mode = .stowing ∧ s.sup.stowPass = none ∨ m = .stowing ∧ s.sup.mode = .stowed) := by
  rw [stowTest_eq]
  split
  · rename_i h; exact .inr ⟨_, rfl, .inl ⟨rfl, h.1, h.2.1⟩⟩
  · split
    · rename_i h; exact .inr ⟨_, rfl, .inr ⟨rfl, h.1⟩⟩
    · exact .inl rfl

/-- Outside STOWING and STOWED there is no stow test. -/
theorem stowTest_other {s : State} (h : s.sup.mode ≠ .stowing) (h' : s.sup.mode ≠ .stowed) : stowTest s = s := by
  rw [stowTest_eq, if_neg (by simp [h]), if_neg (by simp [h'])]

section StowTest
variable (s : State) (i k n z : Nat)
@[simp] theorem stowTest_helios : (stowTest s).helios = s.helios := by rcases stowTest_cases s with e | ⟨_, e, -⟩ <;> rw [e]
@[simp] theorem stowTest_classes : (stowTest s).classes = s.classes := by rcases stowTest_cases s with e | ⟨_, e, -⟩ <;> rw [e]
@[simp] theorem stowTest_standbys : (stowTest s).standbys = s.standbys := by rcases stowTest_cases s with e | ⟨_, e, -⟩ <;> rw [e]
@[simp] theorem stowTest_entries : (stowTest s).entries = s.entries := by rcases stowTest_cases s with e | ⟨_, e, -⟩ <;> rw [e]
@[simp] theorem stowTest_drained : (stowTest s).drained = s.drained := by rcases stowTest_cases s with e | ⟨_, e, -⟩ <;> rw [e]
@[simp] theorem stowTest_zones : (stowTest s).zones = s.zones := by rcases stowTest_cases s with e | ⟨_, e, -⟩ <;> rw [e]
@[simp] theorem stowTest_sweep : (stowTest s).sweep = s.sweep := by rcases stowTest_cases s with e | ⟨_, e, -⟩ <;> rw [e]
@[simp] theorem stowTest_lines : (stowTest s).lines = s.lines := by rcases stowTest_cases s with e | ⟨_, e, -⟩ <;> rw [e]
@[simp] theorem stowTest_weather : (stowTest s).weather = s.weather := by rcases stowTest_cases s with e | ⟨_, e, -⟩ <;> rw [e]
@[simp] theorem stowTest_limits : (stowTest s).limits = s.limits := by rcases stowTest_cases s with e | ⟨_, e, -⟩ <;> rw [e]
@[simp] theorem stowTest_exc : (stowTest s).exc = s.exc := by rcases stowTest_cases s with e | ⟨_, e, -⟩ <;> rw [e]
@[simp] theorem stowTest_link : (stowTest s).link = s.link := by rcases stowTest_cases s with e | ⟨_, e, -⟩ <;> rw [e]
@[simp] theorem stowTest_inReset : (stowTest s).inReset = s.inReset := by rcases stowTest_cases s with e | ⟨_, e, -⟩ <;> rw [e]
@[simp] theorem stowTest_pending : (stowTest s).pending = s.pending := by rcases stowTest_cases s with e | ⟨_, e, -⟩ <;> rw [e]
@[simp] theorem stowTest_helio : (stowTest s).helio i = s.helio i := by simp [State.helio]
@[simp] theorem stowTest_entry : (stowTest s).entry k = s.entry k := by simp [State.entry]
@[simp] theorem stowTest_zone : (stowTest s).zone z = s.zone z := by simp [State.zone]
@[simp] theorem stowTest_line : (stowTest s).line n = s.line n := by simp [State.line]
end StowTest

/-! ## The sun and the start of a sweep -/

/-- An occurrence of a field kind keeps every pending notice. -/
theorem raiseField_keeps (k : ExcKind) (s : State) : ∃ e n, raiseField k s = { s with exc := e, notices := n }
    ∧ e.flags = s.exc.flags ||| k.bit ∧ e.masks = s.exc.masks ∧ e.alert = alertLevel e.flags e.masks
    ∧ (∀ src, inSet s.notices.pend src = true → inSet n.pend src = true) := by
  obtain ⟨e, n, h, hf, hm, ha, hn⟩ := raiseField_eq k s
  refine ⟨e, n, h, hf, hm, ha, ?_⟩
  intro src hs
  rcases hn with rfl | rfl
  · exact hs
  · rw [raise_pend, hs]; rfl

/-- A sun evaluation's exceptions (R94): flags, and the defocus pass a stale sun starts. -/
theorem sunChanges_eq (old new : SunFlags) (s : State) : ∃ e n, sunChanges old new s =
      { s with
        exc := e, notices := n
        sup := { s.sup with defocusPass := if new.stale && !old.stale then some 0 else s.sup.defocusPass } }
    ∧ e.flags = s.exc.flags ||| (if new.stale && !old.stale then ExcKind.staleSun.bit else 0#16)
        ||| (if new.low && !old.low then ExcKind.sunLow.bit else 0#16)
    ∧ e.masks = s.exc.masks ∧ (∀ src, inSet s.notices.pend src = true → inSet n.pend src = true) := by
  unfold sunChanges
  dsimp only
  by_cases a : (new.stale && !old.stale) = true <;> by_cases b : (new.low && !old.low) = true
  · simp only [a, b, if_true]
    obtain ⟨e1, n1, h1, f1, m1, -, p1⟩ := raiseField_keeps .staleSun s
    rw [h1]
    obtain ⟨e2, n2, h2, f2, m2, -, p2⟩ := raiseField_keeps .sunLow (triggerDefocus { s with exc := e1, notices := n1 })
    refine ⟨e2, n2, ?_, ?_, ?_, ?_⟩
    · rw [h2]; rfl
    · rw [f2]; simp only [triggerDefocus]; rw [f1]
    · rw [m2]; exact m1
    · intro src hs; exact p2 src (p1 src hs)
  · simp only [a, b, if_true, Bool.false_eq_true, if_false]
    obtain ⟨e1, n1, h1, f1, m1, -, p1⟩ := raiseField_keeps .staleSun s
    rw [h1]
    exact ⟨_, _, rfl, by simp [f1], m1, p1⟩
  · simp only [a, b, if_true, Bool.false_eq_true, if_false]
    obtain ⟨e1, n1, h1, f1, m1, -, p1⟩ := raiseField_keeps .sunLow s
    rw [h1]
    exact ⟨_, _, rfl, by simp [f1], m1, p1⟩
  · simp only [a, b, Bool.false_eq_true, if_false]
    exact ⟨s.exc, s.notices, rfl, by simp, rfl, fun _ h => h⟩

/-- The evaluation that a sweep start makes. -/
def State.sunNow (s : State) : SnapSun := evalSun s.limits s.sup.sun s.sup.plantTime

/-- The indicators it is compared with. -/
def State.sunBefore (s : State) : SunFlags := s.sup.lastSun.getD ⟨false, false⟩

/-- The start of a sweep, in one equation (R69, R93, R94). -/
theorem sweepStart_eq (s : State) : ∃ e n, sweepStart s = { s with
      zones := s.zones.map Zone.apply
      exc := e, notices := n
      sup := { s.sup with
        lastSun := some s.sunNow.flags
        defocusPass := if s.sunNow.flags.stale && !s.sunBefore.stale then some 0 else s.sup.defocusPass }
      sweep := { s.sweep with
        active := s.sweep.pendingStrategy.getD s.sweep.active, pendingStrategy := none
        snapStrategy := s.sweep.pendingStrategy.getD s.sweep.active
        snapSun := some s.sunNow, snapDni := s.weather.dni
        number := (s.sweep.number + 1) % 4294967296
        timer := .running s.limits.sweepPeriod, progress := some 0 } }
    ∧ e.flags = s.exc.flags ||| (if s.sunNow.flags.stale && !s.sunBefore.stale then ExcKind.staleSun.bit else 0#16)
       ||| (if s.sunNow.flags.low && !s.sunBefore.low then ExcKind.sunLow.bit else 0#16)
    ∧ e.masks = s.exc.masks ∧ (∀ src, inSet s.notices.pend src = true → inSet n.pend src = true) := by
  unfold sweepStart
  dsimp only
  generalize hu : ({ s with zones := _, sup := _, sweep := _ } : State) = u
  obtain ⟨e, n, h, f, m, p⟩ := sunChanges_eq s.sunBefore s.sunNow.flags u
  refine ⟨e, n, ?_, ?_, ?_, ?_⟩
  · refine h.trans ?_; subst hu; rfl
  · rw [f]; subst hu; rfl
  · rw [m]; subst hu; rfl
  · intro src hs; apply p; subst hu; exact hs

/-- Entry into TRACKING: a sweep starts, or waits (R91). -/
theorem enterTracking_cases (s : State) : (s.sweep.progress = none ∧ enterTracking s = sweepStart s)
    ∨ (s.sweep.progress.isSome ∧ enterTracking s = { s with sweep := { s.sweep with startWaiting := true } }) := by
  unfold enterTracking
  split
  · exact .inl ⟨by assumption, rfl⟩
  · rename_i p e; exact .inr ⟨by simp [e], rfl⟩

/-- The position past an index: on, to the end, or into the start that waited (R91, R96). -/
theorem passIndex_cases (i : Nat) (s : State) :
    (i + 1 < Config.nHelio ∧ passIndex i s = { s with sweep := { s.sweep with progress := some (i + 1) } })
    ∨ (Config.nHelio ≤ i + 1 ∧ ¬(s.sweep.startWaiting = true ∧ s.sup.mode = .tracking)
        ∧ passIndex i s = { s with sweep := { s.sweep with progress := none } })
    ∨ (Config.nHelio ≤ i + 1 ∧ s.sweep.startWaiting = true ∧ s.sup.mode = .tracking
        ∧ passIndex i s = sweepStart { s with sweep := { s.sweep with progress := none, startWaiting := false } }) := by
  unfold passIndex
  by_cases h : i + 1 < Config.nHelio
  · rw [if_pos h]; exact .inl ⟨h, rfl⟩
  · rw [if_neg h]
    dsimp only
    by_cases c : s.sweep.startWaiting = true ∧ s.sup.mode = .tracking
    · rw [if_pos c]; exact .inr (.inr ⟨Nat.le_of_not_lt h, c.1, c.2, rfl⟩)
    · rw [if_neg c]; exact .inr (.inl ⟨Nat.le_of_not_lt h, c, rfl⟩)

/-! ## The permit -/

/-- The permit composed anew after a change of the grant or of the PERMIT level (R159, R160). -/
theorem composePermit_eq (before excepted : Bool) (s : State) : ∃ e n, composePermit before excepted s =
      { s with exc := e, notices := n
               sup := { s.sup with defocusPass := if before && !s.permit then some 0 else s.sup.defocusPass } }
    ∧ e.flags = s.exc.flags ||| (if before && !s.permit && excepted then ExcKind.permitDrop.bit else 0#16)
    ∧ e.masks = s.exc.masks ∧ (∀ src, inSet s.notices.pend src = true → inSet n.pend src = true)
    ∧ (before ≠ s.permit → inSet n.pend .mode = true) := by
  have keep : ∀ src, inSet s.notices.pend src = true → inSet (s.notices.raise .mode).pend src = true := by
    intro src h; rw [raise_pend, h]; rfl
  unfold composePermit
  by_cases h : before = s.permit
  · rw [if_pos h]
    refine ⟨s.exc, s.notices, ?_, ?_, rfl, fun _ h => h, fun c => absurd h c⟩
    · rw [h]; simp
    · rw [h]; simp
  · rw [if_neg h]
    cases before
    · have hp : s.permit = true := by simpa using h
      refine ⟨s.exc, s.notices.raise .mode, rfl, by simp, rfl, keep, fun _ => by simp [raise_pend]⟩
    · have hp : s.permit = false := by simpa using h
      cases excepted
      · refine ⟨s.exc, s.notices.raise .mode, ?_, by simp, rfl, keep, fun _ => by simp [raise_pend]⟩
        simp [triggerDefocus, notice, hp]
      · obtain ⟨e, n, q, f, m, -, p⟩ := raiseField_keeps .permitDrop (notice .mode s)
        refine ⟨e, n, ?_, ?_, m, fun src hs => p src (keep src hs), fun _ => p _ (by simp [raise_pend])⟩
        · simp only [if_true]; rw [q]; simp [triggerDefocus, notice, hp]
        · rw [f]; simp [hp]

/-- Entry into STOWING (R154). -/
theorem enterStowing_eq (s : State) : enterStowing s =
    if s.sup.mode = .halted ∨ s.sup.mode = .tracking then { s with
      sup := { s.sup with mode := .stowing, stowPass := some 0 }
      sweep := if s.sup.mode = .tracking then { s.sweep with timer := .stopped, startWaiting := false } else s.sweep
      notices := s.notices.raise .mode }
    else s := by
  unfold enterStowing
  cases h : s.sup.mode <;> simp only [reduceCtorEq, or_self, or_true, true_or, if_true, if_false] <;>
    (try rw [setMode_ne (by simp [h])]) <;> simp [h]

end Sys2Proof.Machine
end

