-- ==== Sys2Proof/Laws/Effects.lean ====
section
/-! SUPPORT. What each shared operation on reservations, offers and sweeps does, as the relations of Safety.lean say it: release and drain
(R58, R61, R62, R83 to R85), a holder sent LEAVING and its offers (R81, R99 to R101, R108), a refresh (R76, R103), a sweep start (R93). -/

namespace Sys2Proof.Machine

/-! ## Release and drain -/

theorem entry_of_ge {s : State} {k : Nat} (h : ¬ k < Config.nSlot) : s.entry k = {} := by simp [State.entry, h]
theorem zone_of_ge {s : State} {z : Nat} (h : ¬ z < Config.nZone) : s.zone z = {} := by simp [State.zone, h]

theorem decUser_slotLeft (s : State) (k : Nat) : s.SlotLeft (decUser k s) k := by
  unfold State.SlotLeft decUser
  dsimp only
  refine ⟨?_, ?_, ?_, ?_⟩
  · rintro ⟨h1, h2⟩
    have b : k < Config.nSlot := by by_contra h; rw [entry_of_ge h] at h1; cases h1
    rw [if_pos ⟨h1, by omega⟩]
    exact ⟨(entry_setEntry s k (j := k) _).trans (if_pos ⟨rfl, b⟩), rfl, rfl⟩
  · intro h
    rw [if_neg (fun c => h ⟨c.1, by omega⟩)]
    refine ⟨?_, rfl, rfl⟩
    rw [entry_setEntry]
    split
    · rfl
    · rename_i hb
      rw [entry_of_ge fun x => hb ⟨rfl, x⟩]; rfl
  · intro m hm
    split
    · exact (entry_setEntry s k (j := m) _).trans (if_neg (by omega))
    · rw [entry_setEntry, if_neg (by omega)]
  · split <;> rfl

theorem releaseSums_released (w : State) (fromLeaving : Bool) (r : Reservation) :
    w.Released (releaseSums fromLeaving (some r) w) fromLeaving r := by
  refine ⟨_, decUser_slotLeft _ _, ?_, ?_, rfl⟩
  · rw [zone_setZone]
    split
    · rfl
    · rename_i hb
      rw [zone_of_ge fun x => hb ⟨rfl, x⟩]; simp
  · intro z hz; rw [zone_setZone, if_neg (by omega)]

theorem releaseAll_allReleased (s : State) (i : Nat) : s.AllReleased (releaseAll i s) i { s.helio i with
    st := .clear, lag := if (s.helio i).st = .clear then (s.helio i).lag else 0, primary := none, transfer := none } := by
  have e : releaseAll i s = releaseSums true (s.helio i).transfer (releaseSums true (s.helio i).primary (s.setHelio i { s.helio i with
      st := .clear, lag := if (s.helio i).st = .clear then (s.helio i).lag else 0, primary := none, transfer := none })) := by
    rw [← toState_eq .clear { s.helio i with primary := none, transfer := none }]; rfl
  rw [e]
  refine ⟨releaseSums true (s.helio i).primary (s.setHelio i { s.helio i with
      st := .clear, lag := if (s.helio i).st = .clear then (s.helio i).lag else 0, primary := none, transfer := none }), ?_, ?_, ?_, ?_⟩
  · intro hp; rw [hp]; rfl
  · intro r hr; rw [hr]; exact releaseSums_released ..
  · intro hp; rw [hp]; rfl
  · intro r hr; rw [hr]; exact releaseSums_released ..

/-! ## Leaving and the offers of a visit -/

theorem enterLeaving_leaves {w : State} {i : Nat} (h : (w.helio i).holder = true) : w.Leaves (enterLeaving i w) i := by
  refine ⟨?_, ?_, ?_, ?_⟩
  · rw [enterLeaving_helio, if_pos ⟨rfl, h⟩]
  · intro j hj; rw [enterLeaving_helio, if_neg (by rintro ⟨x, _⟩; exact hj x.symm)]
  · intro z hz; rw [enterLeaving_zone _ _ _ hz, if_pos h]; rfl
  · obtain ⟨_, _, e⟩ := enterLeaving_eq w i; rw [e]

/-- No fresh snapshot sun: none at all, or a stale one. -/
theorem freshSun_none {s : State} : s.freshSun = none ↔ ∀ sun, s.sweep.snapSun = some sun → sun.flags.stale = true := by
  unfold State.freshSun
  cases s.sweep.snapSun with
  | none => simp
  | some sun => cases h : sun.flags.stale <;> simp [h]

theorem freshSun_some {s : State} {sun : SnapSun} (h : s.sweep.snapSun = some sun) (f : sun.flags.stale = false) : s.freshSun = some sun := by
  simp [State.freshSun, h, f]

theorem offerStandby_offered (u : State) (i : Nat) : u.StandbyOffered (offerStandby i u) i := by
  refine ⟨?_, ?_⟩
  · intro h; unfold offerStandby; rw [freshSun_none.2 h]
  · intro sun h f
    unfold offerStandby
    rw [freshSun_some h f]
    exact ⟨fun t c e => by simp only [e], fun f' e => by simp only [e]⟩

theorem offerOff_offered (u : State) (i : Nat) : u.OfferedOff (offerOff i u) i := by
  refine ⟨?_, ?_⟩
  · intro h; unfold offerOff; rw [freshSun_none.2 h]
  · intro sun h f
    unfold offerOff
    rw [freshSun_some h f]
    refine ⟨fun t c e => by simp only [e], fun f' e => ?_⟩
    simp only [e]
    congr 1
    rw [raiseHelio_helio]
    split
    · rename_i hb
      rw [State.classOf, raiseHelio_helio, if_pos hb, raiseHelio_driveClass]
      rfl
    · rename_i hb
      rw [State.classOf, raiseHelio_helio, if_neg hb, raiseHelio_driveClass]
      rfl

theorem sendOff_sentOff {w : State} {i : Nat} (h : (w.helio i).holder = true) : w.SentOff (sendOff i w) i :=
  ⟨_, enterLeaving_leaves h, offerOff_offered _ _⟩

/-! ## Refreshes and sweep starts -/

theorem reprice_refreshed {w : State} {i : Nat} (held : Reservation) (need : Nat) (h : Helio) (hi : i < Config.nHelio)
    (hz : held.zone < Config.nZone) : w.Refreshed (reprice held.zone held.amount need (w.setHelio i h)) i h held need := by
  refine ⟨?_, ?_, ?_, ?_, rfl⟩
  · simp only [reprice, setZone_helio]; exact helio_setHelio_self _ _ _ hi
  · intro j hj; simp only [reprice, setZone_helio]; exact helio_setHelio_ne _ _ _ _ hj
  · simp only [reprice]; exact (zone_setZone ..).trans (if_pos ⟨rfl, hz⟩)
  · intro z hz'; simp only [reprice]; exact (zone_setZone ..).trans (if_neg (by omega))

theorem sweepStart_started (v : State) : v.SweepStarted (sweepStart v) := by
  have h : ∀ (old new : SunFlags) (w : State), w.exc = v.exc → w.notices = v.notices → w.sup.plantTime = v.sup.plantTime →
      (sunChanges old new w).exc = (sunChanges old new v).exc ∧ (sunChanges old new w).notices = (sunChanges old new v).notices := by
    intro old new w h1 h2 h3
    unfold sunChanges
    split <;> split <;> simp [raiseField, setExc, triggerDefocus, h1, h2, h3]
  unfold sweepStart
  dsimp only
  generalize hw : ({ v with zones := _, sup := _, sweep := _ } : State) = w
  have w1 : w.exc = v.exc := by rw [← hw]
  have hv := h (v.sup.lastSun.getD ⟨false, false⟩) (evalSun v.limits v.sup.sun v.sup.plantTime).flags w w1 (by rw [← hw]) (by rw [← hw])
  obtain ⟨e, n, q, f, -, -⟩ := sunChanges_eq (v.sup.lastSun.getD ⟨false, false⟩) (evalSun v.limits v.sup.sun v.sup.plantTime).flags w
  rw [w1] at f
  refine ⟨_, _, rfl, rfl, ?_, ?_, ?_, hv.1, hv.2, ?_, ?_⟩
  · rw [q, ← hw]
  · intro z hz
    rw [q, ← hw]
    simp only [State.zone, Vector.getElem?_eq_getElem hz, Option.getD_some, Vector.getElem_map]
    cases hp : v.zones[z] with | mk a p c l => cases p <;> rfl
  · rw [q, ← hw]
  · rw [q]; exact f
  · rw [q, ← hw]

end Sys2Proof.Machine
end

