-- ==== Sys2Proof/Laws/Lines.lean ====
section
/-! SUPPORT. What the operations on field lines can do to a state (R112 to R121). -/

namespace Sys2Proof.Machine

/-- A poll made void when it goes to heliostat i. -/
theorem line_voidPolls (i n : Nat) (s : State) : (voidPolls i s).line n = { s.line n with
    poll := (s.line n).poll.map (fun p => if p.helio = i then { p with void := true } else p) } := by
  unfold State.line voidPolls
  by_cases h : n < Config.nLine
  · simp [h]
  · simp [Vector.getElem?_eq_none (Nat.le_of_not_lt h)]

/-- The last carried target of an address forgotten: nothing else of any line changes. -/
theorem line_forgetCarried (n a m : Nat) (s : State) : ∃ c, (forgetCarried n a s).line m = { s.line m with carried := c } := by
  unfold forgetCarried
  rw [line_setLine]
  split
  · rename_i h; obtain ⟨rfl, _⟩ := h; exact ⟨_, rfl⟩
  · exact ⟨_, rfl⟩

/-- The target that a poll carries is the pending one. -/
theorem pollTarget_pending {mode : Mode} {h : Helio} {t : Target} (e : pollTarget mode h = some t) : h.pendingT = some t := by
  unfold pollTarget at e
  split at e
  · cases e
  · rename_i u hu
    split at e
    · cases e
    · split at e <;> first | (split at e <;> simp_all) | simp_all

/-- The start of a poll writes the poll, the position and the carried targets of its line alone. -/
theorem startPoll_eq (n a i : Nat) (rr : Option Nat) (s : State) : ∃ p c,
    startPoll n a i rr s = s.setLine n { s.line n with poll := some p, rr := rr, carried := c }
    ∧ p.helio = i ∧ p.addr = a ∧ p.void = false ∧ p.phase = .sending ∧ p.move = pollTarget s.sup.mode (s.helio i) :=
  ⟨_, _, rfl, rfl, rfl, rfl, rfl, rfl⟩

/-- A choice leaves the state, or starts a poll on its line. -/
theorem choosePoll_cases (n : Nat) (s : State) : choosePoll n s = s ∨ ∃ a i rr, choosePoll n s = startPoll n a i rr s := by
  unfold choosePoll
  split
  · exact .inl rfl
  · split
    · exact .inr ⟨_, _, _, rfl⟩
    · split
      · exact .inr ⟨_, _, _, rfl⟩
      · exact .inl rfl

/-- So does a quiet poll. -/
theorem quietPoll_cases (n : Nat) (s : State) : quietPoll n s = s ∨ ∃ a i rr, quietPoll n s = startPoll n a i rr s := by
  unfold quietPoll
  split
  · exact .inl rfl
  · split
    · exact .inr ⟨_, _, _, rfl⟩
    · exact .inl rfl

/-- A choice writes lines alone, and of them its own, whose timers stay. -/
theorem choosePoll_eq (n : Nat) (s : State) : ∃ l, choosePoll n s = s.setLine n l
    ∧ l.quiet = (s.line n).quiet ∧ l.silence = (s.line n).silence := by
  rcases choosePoll_cases n s with e | ⟨a, i, rr, e⟩
  · exact ⟨s.line n, by rw [e, setLine_self], rfl, rfl⟩
  · exact ⟨_, e, rfl, rfl⟩

section Frames
variable (n : Nat) (s : State) (i k z : Nat)
@[simp] theorem choosePoll_helios : (choosePoll n s).helios = s.helios := by obtain ⟨_, e, -⟩ := choosePoll_eq n s; rw [e]; rfl
@[simp] theorem choosePoll_classes : (choosePoll n s).classes = s.classes := by obtain ⟨_, e, -⟩ := choosePoll_eq n s; rw [e]; rfl
@[simp] theorem choosePoll_standbys : (choosePoll n s).standbys = s.standbys := by obtain ⟨_, e, -⟩ := choosePoll_eq n s; rw [e]; rfl
@[simp] theorem choosePoll_entries : (choosePoll n s).entries = s.entries := by obtain ⟨_, e, -⟩ := choosePoll_eq n s; rw [e]; rfl
@[simp] theorem choosePoll_drained : (choosePoll n s).drained = s.drained := by obtain ⟨_, e, -⟩ := choosePoll_eq n s; rw [e]; rfl
@[simp] theorem choosePoll_zones : (choosePoll n s).zones = s.zones := by obtain ⟨_, e, -⟩ := choosePoll_eq n s; rw [e]; rfl
@[simp] theorem choosePoll_sweep : (choosePoll n s).sweep = s.sweep := by obtain ⟨_, e, -⟩ := choosePoll_eq n s; rw [e]; rfl
@[simp] theorem choosePoll_weather : (choosePoll n s).weather = s.weather := by obtain ⟨_, e, -⟩ := choosePoll_eq n s; rw [e]; rfl
@[simp] theorem choosePoll_sup : (choosePoll n s).sup = s.sup := by obtain ⟨_, e, -⟩ := choosePoll_eq n s; rw [e]; rfl
@[simp] theorem choosePoll_limits : (choosePoll n s).limits = s.limits := by obtain ⟨_, e, -⟩ := choosePoll_eq n s; rw [e]; rfl
@[simp] theorem choosePoll_exc : (choosePoll n s).exc = s.exc := by obtain ⟨_, e, -⟩ := choosePoll_eq n s; rw [e]; rfl
@[simp] theorem choosePoll_notices : (choosePoll n s).notices = s.notices := by obtain ⟨_, e, -⟩ := choosePoll_eq n s; rw [e]; rfl
@[simp] theorem choosePoll_link : (choosePoll n s).link = s.link := by obtain ⟨_, e, -⟩ := choosePoll_eq n s; rw [e]; rfl
@[simp] theorem choosePoll_inReset : (choosePoll n s).inReset = s.inReset := by obtain ⟨_, e, -⟩ := choosePoll_eq n s; rw [e]; rfl
@[simp] theorem choosePoll_pending : (choosePoll n s).pending = s.pending := by obtain ⟨_, e, -⟩ := choosePoll_eq n s; rw [e]; rfl
@[simp] theorem choosePoll_helio : (choosePoll n s).helio i = s.helio i := by simp [State.helio]
@[simp] theorem choosePoll_entry : (choosePoll n s).entry k = s.entry k := by simp [State.entry]
@[simp] theorem choosePoll_zone : (choosePoll n s).zone z = s.zone z := by simp [State.zone]
end Frames

/-- The lowest of a list of members. -/
theorem lowest_spec : ∀ ms : List (Nat × Nat), (ms = [] → lowest ms = none) ∧ (ms ≠ [] → ∃ m, lowest ms = some m ∧ m ∈ ms ∧ ∀ x ∈ ms, m.1 ≤ x.1) := by
  intro ms
  induction ms with
  | nil => simp [lowest]
  | cons m ms ih =>
    refine ⟨by simp, fun _ => ?_⟩
    unfold lowest
    by_cases h : ms = []
    · rw [ih.1 h]; subst h; exact ⟨m, rfl, by simp, by simp⟩
    · obtain ⟨m', e, hm, hl⟩ := ih.2 h
      rw [e]
      dsimp only
      split
      · refine ⟨m, rfl, by simp, ?_⟩
        intro x hx
        rcases List.mem_cons.1 hx with rfl | hx
        · omega
        · have := hl x hx; omega
      · refine ⟨m', rfl, by simp [hm], ?_⟩
        intro x hx
        rcases List.mem_cons.1 hx with rfl | hx
        · omega
        · exact hl x hx

/-- The round-robin choice (R115). -/
theorem roundRobin_spec (rr : Option Nat) (ms : List (Nat × Nat)) (h : ms ≠ []) : ∃ m, roundRobin rr ms = some m ∧ m ∈ ms ∧
   ((∃ q, rr = some q ∧ q < m.1 ∧ ∀ x ∈ ms, q < x.1 → m.1 ≤ x.1)
                    ∨ ((∀ q, rr = some q → ∀ x ∈ ms, x.1 ≤ q) ∧ ∀ x ∈ ms, m.1 ≤ x.1)) := by
  unfold roundRobin
  cases rr with
  | none =>
    obtain ⟨m, e, hm, hl⟩ := (lowest_spec ms).2 h
    exact ⟨m, e, hm, .inr ⟨by simp, hl⟩⟩
  | some p =>
    dsimp only
    by_cases hf : ms.filter (fun m => decide (p < m.1)) = []
    · rw [(lowest_spec _).1 hf]
      obtain ⟨m, e, hm, hl⟩ := (lowest_spec ms).2 h
      refine ⟨m, e, hm, .inr ⟨?_, hl⟩⟩
      intro q hq x hx; cases hq
      have := List.filter_eq_nil_iff.1 hf x hx
      simpa using this
    · obtain ⟨m, e, hm, hl⟩ := (lowest_spec _).2 hf
      rw [e]
      have hm' := List.mem_filter.1 hm
      refine ⟨m, rfl, hm'.1, .inl ⟨p, rfl, by simpa using hm'.2, ?_⟩⟩
      intro x hx hp
      exact hl x (List.mem_filter.2 ⟨hx, by simpa using hp⟩)

/-- The QUIET notice of an access writes the notices alone (R130). -/
theorem quietNotice_eq (b : Bool) (i : Nat) (s : State) : ∃ n, quietNotice b i s = { s with notices := n } := by
  unfold quietNotice; split <;> exact ⟨_, rfl⟩

end Sys2Proof.Machine
end

