-- ==== Sys2Proof/Laws/PerInstr.lean ====
section
/-! SUPPORT. A statement for every command: a request row names a kind of Table 10-3, takes at least one payload length, takes none
that does not fit a plant link frame (LEN at most 252, R180), and is well formed whatever the queue holds. -/

namespace Sys2Proof.Laws.RequestFits

open Sys2Proof.Machine

/-- The request row of a command fits the plant link. -/
def Statement (i : Instr) : Prop :=
  ∀ kind lengthOk, requestRow i = some (kind, lengthOk) →
    wellFormed i = true ∧ knownKind kind = true ∧ (∃ n, lengthOk n = true) ∧ ∀ n, lengthOk n = true → n + 2 ≤ 252

/-- A row with one payload length. -/
theorem of_length {i : Instr} {kind : Byte} {n : Nat} (r : requestRow i = some (kind, (· == n))) (w : wellFormed i = true)
    (k : knownKind kind = true) (h : n + 2 ≤ 252) : Statement i := by
  intro kind' lengthOk e
  rw [r] at e
  obtain ⟨rfl, rfl⟩ := Prod.mk.inj (Option.some.inj e)
  refine ⟨w, k, ⟨n, by simp⟩, ?_⟩
  intro m hm
  have : m = n := by simpa using hm
  omega

/-- A row that is no request. -/
theorem of_none {i : Instr} (r : requestRow i = none) : Statement i := by
  intro kind lengthOk e
  rw [r] at e
  cases e

theorem coldReset : Statement .coldReset := of_none rfl
theorem plantFrameReceived (frame : List Byte) : Statement (.plantFrameReceived frame) := of_none rfl
theorem plantFrameGapTimeout : Statement .plantFrameGapTimeout := of_none rfl
theorem frameSent : Statement .frameSent := of_none rfl
theorem unknownKindRequest : Statement .unknownKindRequest := of_none rfl
theorem setTime : Statement .setTime := of_length rfl rfl rfl (by norm_num)
theorem loadSun : Statement .loadSun := of_length rfl rfl rfl (by norm_num)
theorem setLimits : Statement .setLimits := by
  intro kind lengthOk e
  obtain ⟨rfl, rfl⟩ := Prod.mk.inj (Option.some.inj e)
  refine ⟨rfl, rfl, ⟨5, by decide⟩, ?_⟩
  intro n h
  simp only [Bool.and_eq_true, decide_eq_true_eq] at h
  omega
theorem setMasks : Statement .setMasks := of_length rfl rfl rfl (by norm_num)
theorem loadClass : Statement .loadClass := of_length rfl rfl rfl (by norm_num)
theorem loadHeliostat : Statement .loadHeliostat := of_length rfl rfl rfl (by norm_num)
theorem removeHeliostat : Statement .removeHeliostat := of_length rfl rfl rfl (by norm_num)
theorem setDuty : Statement .setDuty := of_length rfl rfl rfl (by norm_num)
theorem releaseHeliostat : Statement .releaseHeliostat := of_length rfl rfl rfl (by norm_num)
theorem forgetHeliostat : Statement .forgetHeliostat := of_length rfl rfl rfl (by norm_num)
theorem setStandby : Statement .setStandby := of_length rfl rfl rfl (by norm_num)
theorem loadAim : Statement .loadAim := of_length rfl rfl rfl (by norm_num)
theorem disableAim : Statement .disableAim := of_length rfl rfl rfl (by norm_num)
theorem widenAim : Statement .widenAim := of_length rfl rfl rfl (by norm_num)
theorem selectStrategy : Statement .selectStrategy := of_length rfl rfl rfl (by norm_num)
theorem setAllowance : Statement .setAllowance := by
  intro kind lengthOk e
  obtain ⟨rfl, rfl⟩ := Prod.mk.inj (Option.some.inj e)
  refine ⟨rfl, rfl, ⟨5, by decide⟩, ?_⟩
  intro n h
  simp only [Bool.and_eq_true, decide_eq_true_eq] at h
  omega
theorem start : Statement .start := of_length rfl rfl rfl (by norm_num)
theorem halt : Statement .halt := of_length rfl rfl rfl (by norm_num)
theorem grantPermit : Statement .grantPermit := of_length rfl rfl rfl (by norm_num)
theorem revokePermit : Statement .revokePermit := of_length rfl rfl rfl (by norm_num)
theorem stow : Statement .stow := of_length rfl rfl rfl (by norm_num)
theorem resume : Statement .resume := of_length rfl rfl rfl (by norm_num)
theorem quiet : Statement .quiet := of_length rfl rfl rfl (by norm_num)
theorem wake : Statement .wake := of_length rfl rfl rfl (by norm_num)
theorem restart : Statement .restart := of_length rfl rfl rfl (by norm_num)
theorem readStatus : Statement .readStatus := of_length rfl rfl rfl (by norm_num)
theorem setCursor : Statement .setCursor := of_length rfl rfl rfl (by norm_num)
theorem readHeliostats : Statement .readHeliostats := of_length rfl rfl rfl (by norm_num)
theorem readZones : Statement .readZones := of_length rfl rfl rfl (by norm_num)
theorem readAim : Statement .readAim := of_length rfl rfl rfl (by norm_num)
theorem readFault : Statement .readFault := of_length rfl rfl rfl (by norm_num)
theorem readMiss : Statement .readMiss := of_length rfl rfl rfl (by norm_num)
theorem readWeather : Statement .readWeather := of_length rfl rfl rfl (by norm_num)
theorem clearFlags : Statement .clearFlags := of_length rfl rfl rfl (by norm_num)
theorem setNotices : Statement .setNotices := of_length rfl rfl rfl (by norm_num)
theorem readClass : Statement .readClass := of_length rfl rfl rfl (by norm_num)
theorem sweepTimerExpiry : Statement .sweepTimerExpiry := of_none rfl
theorem visit : Statement .visit := of_none rfl
theorem stowPassStep : Statement .stowPassStep := of_none rfl
theorem defocusPassStep : Statement .defocusPassStep := of_none rfl
theorem lineSilenceExpiry (line : Fin Config.nLine) : Statement (.lineSilenceExpiry line) := of_none rfl
theorem pollFrameSent (line : Fin Config.nLine) : Statement (.pollFrameSent line) := of_none rfl
theorem replyTimeout (line : Fin Config.nLine) : Statement (.replyTimeout line) := of_none rfl
theorem replyGapTimeout (line : Fin Config.nLine) : Statement (.replyGapTimeout line) := of_none rfl
theorem driveReply (line : Fin Config.nLine) (bytes : List Byte) : Statement (.driveReply line bytes) := of_none rfl
theorem quietTimerExpiry (line : Fin Config.nLine) : Statement (.quietTimerExpiry line) := of_none rfl
theorem anemoEdge : Statement .anemoEdge := of_none rfl
theorem captureWrap : Statement .captureWrap := of_none rfl
theorem windSample : Statement .windSample := of_none rfl
theorem conversionStart : Statement .conversionStart := of_none rfl
theorem dniReady : Statement .dniReady := of_none rfl
theorem conversionComplete (code : BitVec 16) : Statement (.conversionComplete code) := of_none rfl
theorem dniReadyTimeout : Statement .dniReadyTimeout := of_none rfl
theorem linePinChange (pin : InputPin) (level : Bool) : Statement (.linePinChange pin level) := of_none rfl
theorem lineFilterExpiry (pin : InputPin) : Statement (.lineFilterExpiry pin) := of_none rfl
theorem silenceExpiry : Statement .silenceExpiry := of_none rfl
theorem plantTimeWrap : Statement .plantTimeWrap := of_none rfl
theorem plantByteReceived (b : Byte) : Statement (.plantByteReceived b) := of_none rfl
theorem plantFramingError : Statement .plantFramingError := of_none rfl
theorem replySyncReceived (line : Fin Config.nLine) : Statement (.replySyncReceived line) := of_none rfl
theorem replyFramingError (line : Fin Config.nLine) : Statement (.replyFramingError line) := of_none rfl
theorem vacantIndexPassed : Statement .vacantIndexPassed := of_none rfl
theorem coldResetEnd : Statement .coldResetEnd := of_none rfl

end Sys2Proof.Laws.RequestFits
end

