-- ==== Sys2Proof/Laws/Requests.lean ====
section
/-! SUPPORT. Payloads read back as they were written (Table 10-3), and what the loops over limits, allowances and addresses do
(R37, R68, R185). -/

namespace Sys2Proof.Machine

/-- Values of four bytes cut out of a payload. -/
theorem chunks_natBytes (vs : List Nat) (fuel : Nat) (h : vs.length ≤ fuel) :
   (chunks 4 fuel (vs.flatMap (natBytes 4))) = vs.map (natBytes 4) := by
  induction vs generalizing fuel with
  | nil => cases fuel <;> simp [chunks]
  | cons v vs ih =>
    cases fuel with
    | zero => simp at h
    | succ f =>
      simp only [List.flatMap_cons, chunks, List.length_append, natBytes_length]
      rw [if_neg (by omega)]
      rw [List.take_append_of_le_length (by simp), List.drop_append_of_le_length (by simp)]
      simp only [List.map_cons]
      rw [List.take_of_length_le (by simp), List.drop_eq_nil_of_le (by simp), List.nil_append, ih _ (by simpa using h)]

/-- Pairs of five bytes cut out of a payload. -/
theorem chunks_limitsPayload (vs : List (Nat × Nat)) (fuel : Nat) (h : vs.length ≤ fuel) :
   (chunks 5 fuel (limitsPayload vs)) = vs.map (fun p => byte1 p.1 ++ natBytes 4 p.2) := by
  induction vs generalizing fuel with
  | nil => cases fuel <;> simp [chunks, limitsPayload]
  | cons v vs ih =>
    cases fuel with
    | zero => simp at h
    | succ f =>
      simp only [limitsPayload, List.flatMap_cons, chunks, List.length_append, natBytes_length, byte1_length]
      rw [if_neg (by omega)]
      rw [List.take_append_of_le_length (by simp), List.drop_append_of_le_length (by simp)]
      simp only [List.map_cons]
      rw [List.take_of_length_le (by simp), List.drop_eq_nil_of_le (by simp), List.nil_append]
      congr 1
      exact ih _ (by simpa using h)

/-- The pairs of SET_LIMITS read back. -/
theorem readPairs_limitsPayload {pairs : List (Nat × Nat)} (l : pairs.length ≤ 20) (h : ∀ p ∈ pairs, p.1 < 256 ∧ p.2 < 4294967296) :
    readPairs (limitsPayload pairs) = pairs := by
  unfold readPairs
  rw [chunks_limitsPayload _ _ l, List.map_map]
  conv_rhs => rw [← List.map_id pairs]
  apply List.map_congr_left
  intro p hp
  have := h p hp
  simp only [Function.comp, id]
  rw [fieldNat_byte1 _ this.1, fieldNat_append _ _ _ _ (by simp)]
  simp only [byte1_length, Nat.reduceSub]
  rw [fieldNat_all (by norm_num; omega)]

/-- The values of SET_ALLOWANCE read back. -/
theorem readValues_allowancePayload {z : Nat} {values : List Nat} (l : values.length ≤ 32) (h : ∀ v ∈ values, v < 4294967296) :
    readValues (allowancePayload z values) = values := by
  simp only [readValues, allowancePayload]
  rw [List.drop_append_of_le_length (by simp), List.drop_eq_nil_of_le (by simp), List.nil_append, chunks_natBytes _ _ l]
  simp only [List.map_map]
  conv_rhs => rw [← List.map_id values]
  apply List.map_congr_left
  intro v hv
  have b : v < 256 ^ 4 := by have := h v hv; norm_num; omega
  simp only [Function.comp, id]
  exact beNat_natBytes_of_lt b

/-- LOAD_CLASS's fields read back. -/
theorem readClassFields_classPayload (n : Nat) (c : DriveClass) (hn : n < 256)
    (h1 : ∀ v ∈ [c.azGain, c.elGain, c.azRef], v < 4294967296) (h2 : -2147483648 ≤ c.elRef) (h2' : c.elRef ≤ 2147483647)
    (h3 : ∀ v ∈ [c.azMin, c.azMax, c.elMin, c.elMax, c.defocus, c.stowAz, c.stowEl], -8388608 ≤ v ∧ v ≤ 8388607)
    (h4 : ∀ v ∈ [c.deadband, c.tolerance, c.clearDist], v < 65536) (h5 : c.approachLimit < 256) (h6 : c.lagLimit < 256) :
    fieldNat (classPayload n c) 0 1 = n ∧ readClassFields (classPayload n c) = some { c with valid := true } := by
  simp only [List.forall_mem_cons] at h1 h3 h4
  obtain ⟨a1, a2, a3, -⟩ := h1
  obtain ⟨b1, b2, b3, b4, b5, b6, b7, -⟩ := h3
  obtain ⟨c1, c2, c3, -⟩ := h4
  constructor
  · exact fieldNat_byte1 _ hn
  · have s1 : roundModeOf c.round.code = some c.round := by cases c.round <;> rfl
    have s2 : c.round.code < 256 := by cases c.round <;> decide
    simp only [readClassFields, classPayload, DriveClass.bytes, List.append_assoc]
    simp only [fieldNat_append, fieldInt_append, natBytes_length, intBytes_length, byte1_length, Nat.reduceSub, Nat.reduceLeDiff, Nat.le_refl]
    rw [fieldNat_byte1_all h6, fieldNat_byte1 _ h5, fieldNat_byte1 _ s2]
    repeat rw [fieldNat_zero _ (by norm_num; omega)]
    repeat rw [fieldInt_zero _ (by norm_num; omega) (by norm_num; omega)]
    rw [s1]
    rfl

/-- LOAD_HELIOSTAT's fields read back. -/
theorem readHelioFields_helioPayload (i : Nat) (f : Helio) (hi : i < 65536) (h1 : f.line < 256) (h2 : f.addr < 256) (h3 : f.cls < 256) (h4 : f.standby < 256)
    (h5 : f.weight < 65536) (h6 : ∀ v ∈ [f.pivot.x, f.pivot.y, f.pivot.z], -2147483648 ≤ v ∧ v ≤ 2147483647)
    (h7 : ∀ v ∈ [f.azCal, f.elCal, f.aimOff], -32768 ≤ v ∧ v ≤ 32767) :
    fieldNat (helioPayload i f) 0 2 = i ∧ readHelioFields (helioPayload i f) = some (({ st := .idle } : Helio).withStatic f) := by
  simp only [List.forall_mem_cons] at h6 h7
  obtain ⟨a1, a2, a3, -⟩ := h6
  obtain ⟨b1, b2, b3, -⟩ := h7
  constructor
  · simp only [helioPayload, List.append_assoc]; exact fieldNat_zero _ (by norm_num; omega)
  · have s1 : dutyOf f.duty.code = some f.duty := by cases f.duty <;> rfl
    have s2 : f.duty.code < 256 := by cases f.duty <;> decide
    simp only [readHelioFields, helioPayload, List.append_assoc]
    simp only [fieldNat_append, fieldInt_append, natBytes_length, intBytes_length, byte1_length, Nat.reduceSub, Nat.reduceLeDiff, Nat.le_refl]
    rw [fieldNat_byte1_all s2, fieldNat_byte1 _ h1, fieldNat_byte1 _ h2, fieldNat_byte1 _ h3, fieldNat_byte1 _ h4, fieldNat_zero _ (by norm_num; omega)]
    rw [fieldInt_zero _ (by norm_num; omega) (by norm_num; omega), fieldInt_zero _ (by norm_num; omega) (by norm_num; omega), fieldInt_zero _ (by norm_num; omega) (by norm_num; omega)]
    rw [fieldInt_zero _ (by norm_num; omega) (by norm_num; omega), fieldInt_zero _ (by norm_num; omega) (by norm_num; omega), fieldInt_zero _ (by norm_num; omega) (by norm_num; omega)]
    rw [s1]
    rfl

/-- LOAD_AIM's fields read back. -/
theorem readAimFields_aimPayload (k : Nat) (e : AimEntry) (hk : k < 256) (h1 : e.strategy < 256) (h2 : e.base < 65536) (h3 : e.zone < 256)
   (h4 : (e.size = 1 ∨ e.size = 8 ∨ e.size = 64 ∨ e.size = 512)) (h5 : e.st = .enabled) (h6 : e.users = 0)
   (h7 : ∀ v ∈ [e.aim.x, e.aim.y, e.aim.z], -2147483648 ≤ v ∧ v ≤ 2147483647) : fieldNat (aimPayload k e) 0 1 = k ∧ readAimFields (aimPayload k e) = some e := by
  simp only [List.forall_mem_cons] at h7
  obtain ⟨a1, a2, a3, -⟩ := h7
  constructor
  · simp only [aimPayload, List.append_assoc]; exact fieldNat_byte1 _ hk
  · have s1 : spanCode e.size < 256 := by unfold spanCode; split <;> (try split) <;> (try split) <;> omega
    have s2 : spanSizeOf (spanCode e.size) = some e.size := by rcases h4 with h | h | h | h <;> rw [h] <;> rfl
    have s3 : boolByte e.shared = byte1 (if e.shared then 1 else 0) := by cases e.shared <;> rfl
    have s4 : flagOf (if e.shared then 1 else 0) = some e.shared := by cases e.shared <;> rfl
    have s5 : dutySetOf e.duties.toNat = some e.duties := by simp [dutySetOf, e.duties.isLt]
    have s6 := e.duties.isLt
    simp only [readAimFields, aimPayload, List.append_assoc, s3]
    simp only [fieldNat_append, fieldInt_append, natBytes_length, intBytes_length, byte1_length, Nat.reduceSub, Nat.reduceLeDiff, Nat.le_refl]
    rw [fieldNat_byte1 _ s1, fieldNat_byte1 _ h1, fieldNat_byte1 _ (by split <;> omega), fieldNat_byte1 _ h3, fieldNat_byte1_all (by omega), fieldNat_zero _ (by norm_num; omega)]
    rw [fieldInt_zero _ (by norm_num; omega) (by norm_num; omega), fieldInt_zero _ (by norm_num; omega) (by norm_num; omega), fieldInt_zero _ (by norm_num; omega) (by norm_num; omega)]
    rw [s2, s4, s5]
    simp only
    rw [← h5, ← h6]

/-- Another occupied record holds the line and address (R37, check 3). -/
theorem addressTaken_iff (s : State) (i l a : Nat) : s.addressTaken i l a = true ↔ ∃ j < Config.nHelio, j ≠ i ∧ (s.helio j).occupied = true ∧ (s.helio j).line = l ∧ (s.helio j).addr = a := by
  unfold State.addressTaken
  simp only [List.any_eq_true, Bool.and_eq_true, bne_iff_ne, beq_iff_eq]
  constructor
  · rintro ⟨⟨h, j⟩, hm, ⟨⟨h1, h2⟩, h3⟩, h4⟩
    have := List.mem_zipIdx hm
    have hj : j < Config.nHelio := by simpa using this.2.1
    have e : s.helio j = h := by simp [State.helio, hj, this.2.2]
    exact ⟨j, hj, h1, by rw [e]; exact ⟨h2, h3, h4⟩⟩
  · rintro ⟨j, hj, h1, h2, h3, h4⟩
    refine ⟨(s.helio j, j), ?_, ⟨⟨h1, h2⟩, h3⟩, h4⟩
    rw [List.mk_mem_zipIdx_iff_getElem?]
    simp [State.helio, hj]

/-- A known id is stored. -/
theorem setLimit_some (l : Config.Limits) (id v : Nat) (h : 1 ≤ id ∧ id ≤ 0x11) : ∃ l', setLimit l id v = some l' := by
  obtain ⟨a, b⟩ := h
  interval_cases id <;> exact ⟨_, rfl⟩

/-- An unknown id is not. -/
theorem setLimit_none (l : Config.Limits) (id v : Nat) (h : id = 0 ∨ 0x11 < id) : setLimit l id v = none := by
  unfold setLimit; split <;> first | omega | rfl

/-- One unknown id refuses the whole request (R185). -/
theorem applyPairs_none (ps : List (Nat × Nat)) : ∀ l, (∃ p ∈ ps, p.1 = 0 ∨ 0x11 < p.1) → applyPairs l ps = none := by
  induction ps with
  | nil => simp
  | cons p ps ih =>
    intro l h
    simp only [applyPairs]
    split
    · rename_i l' e
      apply ih
      obtain ⟨q, hq, hb⟩ := h
      rcases List.mem_cons.1 hq with rfl | hq
      · rw [setLimit_none _ _ _ hb] at e; cases e
      · exact ⟨q, hq, hb⟩
    · rfl

/-- Known ids are all stored. -/
theorem applyPairs_some (ps : List (Nat × Nat)) : ∀ l, (∀ p ∈ ps, 1 ≤ p.1 ∧ p.1 ≤ 0x11) → ∃ l', applyPairs l ps = some l' := by
  induction ps with
  | nil => intro l _; exact ⟨l, rfl⟩
  | cons p ps ih =>
    intro l h
    obtain ⟨l', e⟩ := setLimit_some l p.1 p.2 (h p (by simp))
    simp only [applyPairs, e]
    exact ih l' fun q hq => h q (by simp [hq])

/-- A stored limit leaves every other. -/
theorem limitValue_setLimit_ne {l l' : Config.Limits} {id v j : Nat} (e : setLimit l id v = some l') (h : j ≠ id) : limitValue l' j = limitValue l j := by
  unfold setLimit at e
  split at e <;> first | (cases e) <;> (unfold limitValue; split <;> first | rfl | omega)

/-- Limits not named stay. -/
theorem limitValue_applyPairs_ne (ps : List (Nat × Nat)) (j : Nat) : ∀ l l', applyPairs l ps = some l' → (∀ p ∈ ps, p.1 ≠ j) → limitValue l' j = limitValue l j := by
  induction ps with
  | nil => intro l l' e _; cases e; rfl
  | cons p ps ih =>
    intro l l' e h
    simp only [applyPairs] at e
    split at e
    · rename_i l1 e1
      rw [ih l1 l' e (fun q hq => h q (by simp [hq])), limitValue_setLimit_ne e1 (by have := h p (by simp); omega)]
    · cases e

/-- Pairs are applied in order. -/
theorem applyPairs_append (a b : List (Nat × Nat)) : ∀ l l', applyPairs l (a ++ b) = some l' → ∃ l1, applyPairs l a = some l1 ∧ applyPairs l1 b = some l' := by
  induction a with
  | nil => intro l l' h; exact ⟨l, rfl, h⟩
  | cons p ps ih =>
    intro l l' e
    simp only [List.cons_append, applyPairs] at e ⊢
    split at e
    · rename_i l1 e1; exact ih _ _ e
    · cases e

/-- What SET_ALLOWANCE writes (R68). -/
theorem setPending_spec (vs : List Nat) : ∀ (z : Nat) (s : State), z + vs.length ≤ 128 →
   (∀ j v, vs[j]? = some v → (setPending z vs s).zone (z + j) = { s.zone (z + j) with pending := some (min 16777215 v) })
          ∧ (∀ n, n < z ∨ z + vs.length ≤ n → (setPending z vs s).zone n = s.zone n)
          ∧ { (setPending z vs s) with zones := s.zones } = s := by
  induction vs with
  | nil => intro z s h; simp [setPending]
  | cons v vs ih =>
    intro z s h
    simp only [List.length_cons] at h
    obtain ⟨h1, h2, h3⟩ := ih (z+1) (s.setZone z { s.zone z with pending := some (min 16777215 v) }) (by omega)
    simp only [setPending]
    refine ⟨?_, ?_, ?_⟩
    · intro j w hj
      cases j with
      | zero =>
        simp at hj; subst hj
        rw [h2 _ (by omega), zone_setZone]
        simp; intro hh; change 128 ≤ z at hh; omega
      | succ j =>
        have := h1 j w (by simpa using hj)
        rw [show z + (j+1) = z + 1 + j by omega, this, zone_setZone, if_neg (by omega)]
    · intro n hn
      rw [h2 n (by simp at hn; omega), zone_setZone, if_neg (by simp at hn; omega)]
    · have := congrArg (fun u : State => { u with zones := s.zones }) h3
      exact this

end Sys2Proof.Machine
end

