-- ==== Sys2Proof/Tests/Slice0.lean ====
section
/-! SUPPORT. Own tests: the smoke test of WellFormed, the worked figures of the spec, each about one command on a small state,
and for each statement a witness that its hypotheses can be met. Every expected value is the spec's or hand calculation from it;
the comment above a group names the figure or rule. -/

namespace Sys2Proof.Tests

set_option Elab.async false

open Sys2Proof.Machine

/-! ## Helpers and sample states -/

/-- The state a command leaves. -/
def after (c : Instr) (s : State) : State :=
  match exec c s with
  | .next t => t
  | .fault _ => s
  | .refused _ => s

/-- The request with this kind and payload, tag 0x5A. -/
def req (kind : Byte) (payload : List Byte) : Req := { kind := kind, tag := 0x5A#8, payload := payload }

/-- The state in which that request alone waits, with this work left, and the transmitter is idle. -/
def asking (kind : Byte) (payload : List Byte) (w : Option Work) (s : State) : State :=
  { s with link := { s.link with queue := [{ req kind payload with work := w }], restarting := false } }

theorem asks_asking (kind : Byte) (payload : List Byte) (w : Option Work) (s : State) (h : s.inReset = false) :
    (asking kind payload w s).asks { req kind payload with work := w } kind payload := by
  refine ⟨h, ?_, rfl, rfl⟩
  simp [asking, req, State.nextRequest]

/-- The same before its first access. -/
def ask (kind : Byte) (payload : List Byte) (s : State) : State := asking kind payload none s

theorem asks_ask (kind : Byte) (payload : List Byte) (s : State) (h : s.inReset = false) :
    (ask kind payload s).asks (req kind payload) kind payload := asks_asking kind payload none s h

/-- The payload of the reply frame that a request's row puts on PL_TXD. -/
def reply (c : Instr) (kind : Byte) (payload : List Byte) (s : State) : List Byte :=
  ((after c (ask kind payload s)).link.tx.map (·.payload)).getD []

/-- The class of the worked cases: gain 1.25 counts/mdeg, the travel, stow counts and defocus offset of Figure 1-3, the tolerance,
clear distance and limits of Figure 6-4. -/
def cls : DriveClass :=
  { valid := true, azGain := 1250000, elGain := 1250000, azRef := 180000, elRef := 0, azMin := -337500, azMax := 337500
    elMin := -6250, elMax := 112500, deadband := 40, tolerance := 50, clearDist := 2000, defocus := 4000, stowAz := 0, stowEl := -6000
    approachLimit := 3, lagLimit := 5 }

/-- The heliostat of Table 1-3 (weight of section 4.12), CLEAR, line 2, address 7. -/
def helio : Helio :=
  { st := .clear, line := 2, addr := 7, pivot := ⟨0, -500000, 0⟩, azCal := 120, elCal := -35, weight := 20000
    commanded := some ⟨.receiver, 224000, 107000⟩ }

/-- Aim slot 7 of section 4.12: span 0..7, the aim point of Table 1-3, zone 14, OPERATE. -/
def slot7 : AimEntry := { st := .enabled, base := 0, size := 8, aim := ⟨0, 0, 200000⟩, zone := 14, duties := 1#3 }

/-- The sun of Table 1-3. -/
def sun : SnapSun := ⟨180000000, 30000000, ⟨false, false⟩⟩

/-- A field in TRACKING with the permit in force, a fresh sun and dni_used 950 in the snapshot, zone 14 with allowance 60,000 as in section
4.12, and the sweep at index 0; every line free. -/
def field : State :=
  { State.reset with
    helios := State.reset.helios.setIfInBounds 0 helio
    classes := State.reset.classes.setIfInBounds 0 cls
    entries := State.reset.entries.setIfInBounds 7 slot7
    zones := State.reset.zones.setIfInBounds 14 { active := 60000, committed := 51000, leaving := 4000 }
    lines := State.reset.lines.map fun l => { l with silence := none }
    sweep := { timer := .running 1000, progress := some 0, snapSun := some sun, snapDni := 950, number := 1 }
    sup := { mode := .tracking, grant := true, sunPresent := true, timeSet := true, lastSun := some ⟨false, false⟩ }
    weather := { permitIn := ⟨true, true, none⟩, wind := .calm } }

/-- The field with another record at index 0. -/
def withHelio (h : Helio) : State := field.setHelio 0 h

/-- The field in another mode, its sweep ended and its timer stopped. -/
def inMode (m : Mode) : State :=
  { field with sup := { field.sup with mode := m }, sweep := { field.sweep with timer := .stopped, progress := none } }

/-- The reservation of section 4.12. -/
def held : Reservation := ⟨14, 7, 8200⟩

/-- The holder of section 4.12, its entry counting it. -/
def holding (st : HState) : State :=
  (withHelio { helio with st := st, primary := some held, lastRecv := some (224000, 107000) }).setEntry 7 { slot7 with users := 1 }

/-! ## Ill-formed commands are refused by the check, and leave the state alone -/

theorem test_wf_empty_frame : wellFormed (.plantFrameReceived []) = false := by decide
theorem test_wf_len_below_two : wellFormed (.plantFrameReceived [0x01#8, 0x20#8, 0x00#8, 0x00#8]) = false := by decide
theorem test_wf_len_above_252 : wellFormed (.plantFrameReceived (0xFD#8 :: List.replicate 255 0x00#8)) = false := by decide +kernel
theorem test_wf_frame_short : wellFormed (.plantFrameReceived [0x02#8, 0x20#8, 0x00#8, 0x00#8]) = false := by decide
theorem test_wf_frame : wellFormed (.plantFrameReceived [0x02#8, 0x20#8, 0x00#8, 0x00#8, 0x00#8]) = true := by decide
theorem test_wf_reply_short : wellFormed (.driveReply 0 (List.replicate 10 0x00#8)) = false := by decide
theorem test_wf_reply_long : wellFormed (.driveReply 0 (List.replicate 12 0x00#8)) = false := by decide
theorem test_ill_formed_leaves_state : exec (.plantFrameReceived []) State.reset = .next State.reset := rfl

/-! ## Bytes, check and geometry -/

/-- The check of R118 over the ASCII digits 1 to 9 (the polynomial, initial value and order that R118 gives). -/
theorem test_crc16_check :
    crc16 [0x31#8, 0x32#8, 0x33#8, 0x34#8, 0x35#8, 0x36#8, 0x37#8, 0x38#8, 0x39#8] = 0x29B1#16 := by decide +kernel

/-- Figure 1-2, steps 2 and 4. -/
theorem test_sun_step2 : evalSun {} ⟨43140000, 179500000, 62400000, 8333, -1150⟩ 43204001
    = ⟨180033320, 62326399, ⟨false, false⟩⟩ := by decide +kernel
theorem test_sun_step4 : evalSun {} ⟨43140000, 179500000, 62400000, 8333, -1150⟩ 43264000
    = ⟨180533292, 62257400, ⟨true, false⟩⟩ := by decide +kernel

/-- Figure 1-4, and its variations in the round mode, the current counts, the travel and the point. -/
theorem test_geometry_case : aimAt false sun cls helio ⟨0, 0, 200000⟩ = .ok (⟨.receiver, 225150, 107332⟩, 1789) := by decide +kernel
theorem test_geometry_up : aimAt false sun { cls with round := .up } helio ⟨0, 0, 200000⟩
    = .ok (⟨.receiver, 225150, 107333⟩, 1789) := by decide +kernel
theorem test_geometry_nearest : aimAt false sun cls { helio with commanded := none } ⟨0, 0, 200000⟩
    = .ok (⟨.receiver, -224850, 107332⟩, 1789) := by decide +kernel
theorem test_geometry_travel : aimAt false sun { cls with azMin := -200000, azMax := 200000 } helio ⟨0, 0, 200000⟩
    = .error .travel := by decide +kernel
theorem test_geometry_standby_clamped : aimAt true sun { cls with azMin := -200000, azMax := 200000 } helio ⟨0, 0, 200000⟩
    = .ok (⟨.standby, -200000, 107332⟩, 1789) := by decide +kernel
theorem test_geometry_point_at_pivot : aimAt true sun cls helio ⟨0, -500000, 0⟩ = .error .geometry := by decide +kernel

/-- Figure 1-3, cases C, D and E. -/
theorem test_defocus_c : defocusTarget cls { helio with commanded := some ⟨.receiver, 225150, 112500⟩ }
    = ⟨.defocus, 225150, 108500⟩ := by decide +kernel
theorem test_defocus_d : defocusTarget cls { helio with commanded := none, reported := some ⟨-340000, 50000, true, 0⟩ }
    = ⟨.defocus, -337500, 54000⟩ := by decide +kernel
theorem test_defocus_e : defocusTarget cls { helio with commanded := none } = ⟨.defocus, 0, -6000⟩ := by decide +kernel

/-- Section 4.12: 8,298.584 is rounded up; note 1: the largest contribution. -/
theorem test_contribution : contribution 20000 1789 950 = 8299 := by decide +kernel
theorem test_contribution_largest : contribution 65535 4096 1400 = 91749 := by decide +kernel

/-- Figure 3-2: a shared entry matches under any strategy; a duty not permitted is denied; a DRAINING entry is not matched. -/
def map32 : State :=
  ((((State.reset.setEntry 0 { st := .enabled, shared := true, base := 1536, size := 512, zone := 100, duties := 3#3 }).setEntry 1
    { st := .enabled, base := 0, size := 512, zone := 10, duties := 1#3 }).setEntry 2
    { st := .enabled, strategy := 2, base := 0, size := 64, zone := 11, duties := 5#3 }).setEntry 3
    { st := .draining, strategy := 2, base := 64, size := 8, zone := 12, duties := 1#3, users := 1 }).setEntry 4
    { st := .enabled, strategy := 2, base := 72, size := 8, zone := 12, duties := 1#3 }

theorem test_lookup_shared : map32.lookup 1600 5 .operate = .found 0 := by decide +kernel
theorem test_lookup_denied : map32.lookup 40 2 .preheat = .denied 2 := by decide +kernel
theorem test_lookup_draining : map32.lookup 66 2 .operate = .miss := by decide +kernel
theorem test_lookup_past_span : map32.lookup 600 0 .operate = .miss := by decide +kernel

/-! ## The step, the resets and the plant link port -/

/-- Bytes written out. -/
def bs (ns : List Nat) : List Byte := ns.map (BitVec.ofNat 8)

/-- A state in which every timer ends with the next microsecond. -/
def allDue : State :=
  { field with
    sweep := { field.sweep with timer := .running 1 }
    lines := field.lines.map fun l => { l with
      silence := some 1, quiet := some 1
      poll := some { helio := 0, addr := 7, move := none, void := false, watch := 30, timeout := 2, phase := .awaiting 1 } }
    weather := { field.weather with sampleLeft := 1, convLeft := 1, conv := .converting 1 }
    sup := { field.sup with silence := 1, plantTime := 86399999, usInMs := 999 } }

/-- RELEASE_HELIOSTAT 0xFFFF with the accesses from index j on still to come. -/
def releasing (j : Nat) (s : State) : State := asking 0x09#8 (bs [0xFF, 0xFF]) (some (.release j)) s

theorem witness_IdleStep_first : State.reset.pending = [] ∧ State.reset.inReset = false ∧ State.reset.workLeft = none
    ∧ State.reset.sup.usInMs < 999 := by decide
theorem witness_IdleStep_last : allDue.pending = [] ∧ allDue.inReset = false ∧ allDue.workLeft = none
    ∧ 999 ≤ allDue.sup.usInMs ∧ allDue.sweep.timer = .running 1 := by decide
theorem witness_IdleStep_work : (releasing 5 field).pending = [] ∧ (releasing 5 field).inReset = false
    ∧ (releasing 5 field).workLeft = some (.release 5) := by decide
theorem test_idle_step_expiries : (tick allDue).pending.length = 30 := by decide +kernel

/-- R24, R47, R65: a cold reset from a full field. -/
theorem test_cold_reset : ((after .coldReset field).helio 0 = {}) ∧ (after .coldReset field).weather.permitIn = ⟨true, false, none⟩ := by
  decide +kernel
/-- R147: an input asserted at power-on is taken 10 ms after the reset ends. -/
theorem test_cold_reset_end : (after .coldResetEnd (after .coldReset field)).weather.permitIn = ⟨true, false, some 10000⟩ := by
  decide +kernel
theorem witness_ColdReset : (after .coldReset field).inReset = true ∧ field.inReset = false := by decide +kernel

/-- RESTART's reply is being sent. -/
def restartReply : State :=
  { holding .onTarget with link :=
    { tx := some ⟨0x99#8, 0x5A#8, [0x00#8], .reply false true []⟩, queue := [{ req 0x19#8 [] with done := true }], restarting := true } }

theorem witness_Restart : (ask 0x19#8 [] field).asks (req 0x19#8 []) 0x19#8 [] ∧ restartReply.inReset = false
    ∧ restartReply.link.tx = some ⟨0x99#8, 0x5A#8, [0x00#8], .reply false true []⟩ := ⟨asks_ask _ _ _ rfl, rfl, rfl⟩
/-- R24: a warm reset keeps the static fields and makes the record IDLE. -/
theorem test_warm_reset : (after .frameSent restartReply).helio 0
    = { helio with st := .idle, commanded := none } := by decide +kernel
theorem test_restart_reply : reply .restart 0x19#8 [] field = [0x00#8] := by decide +kernel

/-- A frame of each origin being sent. -/
def sending (o : TxOrigin) : State :=
  { field with link := { tx := some ⟨0xA2#8, 0x01#8, [0x00#8], o⟩, queue := [{ req 0x22#8 [0x08#8] with done := true }] } }

theorem witness_FrameSent (o : TxOrigin) : (sending o).inReset = false ∧ (sending o).link.tx = some ⟨0xA2#8, 0x01#8, [0x00#8], o⟩ :=
  ⟨rfl, rfl⟩
/-- Figure 10-2, step 4: the place in the queue is given up when the last byte of the reply has been sent (R181). -/
theorem test_frame_sent_gives_place : (after .frameSent (sending (.reply false false []))).link.queue = [] := by decide +kernel
theorem test_frame_sent_next_segment :
    (after .frameSent (sending (.reply false false [[0x07#8]]))).link.tx = some ⟨0xA2#8, 0x01#8, [0x07#8], .reply false false []⟩ := by
  decide +kernel

/-- Figure 9-2, step 3: ALERT before MODE, with tag 0. -/
def twoDue : State := { field with notices := { field.notices with due := 3#6, pend := 3#6 } }

theorem witness_Arbiter : (sending (.notice .mode)).link.tx.isSome ∧ twoDue.link.tx = none ∧ twoDue.link.ready = []
    ∧ noticeOrder = [] ++ .alert :: [.mode, .wind, .miss, .drained, .quiet] ∧ inSet twoDue.notices.due .alert = true
    ∧ field.notices.due = 0#6 := by decide
theorem witness_Arbiter_ready : ∃ r : Reply, ({ field with link := { ready := [r] } } : State).link.ready = r :: [] ∧ r.segments = [[0x00#8]] :=
  ⟨{ kind := 0xA0#8, tag := 0x01#8, segments := [[0x00#8]] }, rfl, rfl⟩
theorem test_notice_order : (arbiter twoDue).link.tx = some ⟨0x40#8, 0x00#8, bs [0, 0, 0, 0], .notice .alert⟩ := by decide +kernel

theorem witness_FrameBytes : (List.replicate 250 0x00#8).length ≤ 250 ∧ State.reset.inReset = false
    ∧ State.reset.link.rx = .hunting ∧ arbiter State.reset = State.reset := ⟨by decide +kernel, rfl, rfl, rfl⟩

/-- A queue of n requests carried out, and a FULL list of m, the transmitter busy. -/
def filled (n m : Nat) : State :=
  { field with link := {
      queue := List.replicate n { req 0x20#8 [] with done := true }, fullList := List.replicate m (0x20#8, 0x01#8)
      tx := some ⟨0xA0#8, 0x01#8, [0x00#8], .reply false false []⟩ } }

theorem witness_WholeFrame_bad : (filled 0 0).link.rx.fits (bs [2, 32, 1] ++ [0x00#8, 0x00#8]) = true
    ∧ completeFrame (bs [2, 32, 1] ++ [0x00#8, 0x00#8]) = true ∧ [0x00#8, 0x00#8] ≠ crcBytes (bs [2, 32, 1])
    ∧ (filled 0 0).inReset = false := by decide +kernel
theorem witness_WholeFrame : (filled 4 4).inReset = false ∧ (filled 4 4).link.rx.fits (plantFrameBody 0x20#8 0x05#8 []) = true := by
  decide +kernel
/-- Figure 10-2, step 3, and R181: FULL for the fifth frame, nothing for one past the FULL list. -/
theorem test_fifth_frame_full : (after (.plantFrameReceived (plantFrameBody 0x20#8 0x05#8 [])) (filled 4 0)).link.fullList
    = [(0x20#8, 0x05#8)] := by decide +kernel
theorem test_frame_past_full_list :
    (after (.plantFrameReceived (plantFrameBody 0x20#8 0x05#8 [])) (filled 4 4)).link = (filled 4 4).link := by decide +kernel

/-- The receiver with the sync byte taken. -/
def midFrame : State := { field with link := { rx := .receiving [] 0 } }

theorem witness_Partial : midFrame.inReset = false ∧ midFrame.link.rx = .receiving [] 0 ∧ field.link.rx = .hunting := by decide
/-- R180: LEN runs 2..252; a framing error and a gap discard the partial frame. -/
theorem test_len_bounds : (after (.plantByteReceived 0x01#8) midFrame).link.rx = .hunting
    ∧ (after (.plantByteReceived 0x02#8) midFrame).link.rx = .receiving [0x02#8] 0
    ∧ (after (.plantByteReceived 0xFC#8) midFrame).link.rx = .receiving [0xFC#8] 0
    ∧ (after (.plantByteReceived 0xFD#8) midFrame).link.rx = .hunting := by decide +kernel
theorem test_partial_discarded : (after .plantFramingError midFrame).link.rx = .hunting
    ∧ (after .plantFrameGapTimeout midFrame).link.rx = .hunting := by decide +kernel

/-- R182: 0x1A names no request; a kind of 0x80 or above is answered with kind 0xFF. -/
theorem witness_KindThenLength : (ask 0x1A#8 [] field).nextRequest = some (req 0x1A#8 []) ∧ knownKind 0x1A#8 = false
    ∧ (ask 0x01#8 (bs [0, 0, 0]) field).nextRequest = some (req 0x01#8 (bs [0, 0, 0])) ∧ field.inReset = false := by decide +kernel
theorem test_unknown_kind : (after .unknownKindRequest (ask 0x80#8 [] field)).link.tx
    = some ⟨0xFF#8, 0x5A#8, [0x01#8], .reply false false []⟩ := by decide +kernel
theorem test_bad_length : reply .setTime 0x01#8 (bs [0, 0, 0]) field = [0x02#8] := by decide +kernel

/-! ## Requests that set registers -/

theorem witness_SetTimeAndLoadSun : (ask 0x01#8 (natBytes 4 86399999) field).asks (req 0x01#8 (natBytes 4 86399999)) 0x01#8 (natBytes 4 86399999)
    ∧ (ask 0x02#8 (SunRecord.bytes ⟨86399999, -2147483648, 2147483647, 200001, -200001⟩) field).asks
        (req 0x02#8 (SunRecord.bytes ⟨86399999, -2147483648, 2147483647, 200001, -200001⟩)) 0x02#8
        (SunRecord.bytes ⟨86399999, -2147483648, 2147483647, 200001, -200001⟩) := ⟨asks_ask _ _ _ rfl, asks_ask _ _ _ rfl⟩
theorem test_set_time_last_ms : reply .setTime 0x01#8 (bs [0x05, 0x26, 0x5B, 0xFF]) field = bs [0, 0x05, 0x26, 0x5B, 0xFF] := by decide +kernel
theorem test_set_time_past_day : reply .setTime 0x01#8 (bs [0x05, 0x26, 0x5C, 0x00]) field = [0x03#8] := by decide +kernel
/-- R2: an azimuth of -1 µdeg is stored as 359,999,999, a rate of 200,001 as 200,000. -/
theorem test_load_sun : (after .loadSun (ask 0x02#8
      (bs [0, 0, 0, 0, 0xFF, 0xFF, 0xFF, 0xFF, 0, 0, 0, 1, 0x00, 0x03, 0x0D, 0x41, 0xFF, 0xFC, 0xF2, 0xBF]) field)).sup.sun
    = ⟨0, 359999999, 1, 200000, -200000⟩ := by decide +kernel
theorem test_load_sun_no_time : reply .loadSun 0x02#8 (bs (List.replicate 20 0)) State.reset = [0x30#8] := by decide +kernel

theorem witness_SetLimits : (ask 0x03#8 (limitsPayload [(1, 999), (10, 1000), (12, 80000)]) field).asks
      (req 0x03#8 (limitsPayload [(1, 999), (10, 1000), (12, 80000)])) 0x03#8 (limitsPayload [(1, 999), (10, 1000), (12, 80000)])
    ∧ (ask 0x03#8 (limitsPayload [(18, 0)]) field).asks (req 0x03#8 (limitsPayload [(18, 0)])) 0x03#8 (limitsPayload [(18, 0)])
    ∧ (ask 0x03#8 (limitsPayload [(12, 80000), (10, 80000)]) field).asks (req 0x03#8 (limitsPayload [(12, 80000), (10, 80000)])) 0x03#8
        (limitsPayload [(12, 80000), (10, 80000)])
    ∧ limitRange 1 = some (1000, 60000) ∧ 2 ≤ limitValue field.limits 10 :=
  ⟨asks_ask _ _ _ rfl, asks_ask _ _ _ rfl, asks_ask _ _ _ rfl, rfl, by decide⟩
/-- Table 10-1: the sweep period is clamped to 1,000, a gust resume limit to its stow limit minus 1. -/
theorem test_set_limits_clamps : reply .setLimits 0x03#8
      (bs [0x01, 0, 0, 0, 0, 0x0A, 0, 0, 0x03, 0xE8, 0x0C, 0, 0, 0x40, 0]) field
    = bs [0, 0x01, 0, 0, 0x03, 0xE8, 0x0A, 0, 0, 0x03, 0xE8, 0x0C, 0, 0, 0x03, 0xE7] := by decide +kernel
/-- R185: a resume pair is clamped against the stow limit as it stands then, 15,000, and stays when its stow limit rises after it. -/
theorem test_set_limits_resume_then_stow : reply .setLimits 0x03#8 (bs [0x0C, 0, 1, 0x38, 0x80, 0x0A, 0, 1, 0x38, 0x80]) field
    = bs [0, 0x0C, 0, 0, 0x3A, 0x97, 0x0A, 0, 1, 0x38, 0x80] := by decide +kernel
theorem test_set_limits_unknown_id : reply .setLimits 0x03#8 (bs [0x12, 0, 0, 0, 0]) field = [0x03#8] := by decide +kernel

/-- FLUX and DRIVE_LOST set, with the masks of a cold reset: ALERT asserted. -/
def alerted : State := { field with exc := { flags := 0x0082#16, count := 1, alert := true, fault := some ⟨.driveLost, 50412300, some 603, some 9, some 2⟩ } }

theorem witness_MasksFlagsAndEnables : (ask 0x04#8 (natBytes 2 65535) alerted).asks (req 0x04#8 (natBytes 2 65535)) 0x04#8 (natBytes 2 65535)
    ∧ (ask 0x28#8 [] alerted).asks (req 0x28#8 []) 0x28#8 []
    ∧ (ask 0x29#8 (byte1 63) twoDue).asks (req 0x29#8 (byte1 63)) 0x29#8 (byte1 63)
    ∧ (ask 0x29#8 (byte1 64) twoDue).asks (req 0x29#8 (byte1 64)) 0x29#8 (byte1 64) :=
  ⟨asks_ask _ _ _ rfl, asks_ask _ _ _ rfl, asks_ask _ _ _ rfl, asks_ask _ _ _ rfl⟩
/-- Figure 9-3, step 5: DRIVE_LOST and LINK_SILENT masked beside the defaults deasserts ALERT; step 6: FLUX unmasked asserts it. -/
theorem test_set_masks_deasserts : reply .setMasks 0x04#8 (bs [0x62, 0xFA]) alerted = bs [0, 0x62, 0xFA, 0] := by decide +kernel
theorem test_set_masks_asserts : reply .setMasks 0x04#8 (bs [0x62, 0x7A]) alerted = bs [0, 0x62, 0x7A, 1] := by decide +kernel
/-- Figure 9-3, step 8. -/
theorem test_clear_flags : (after .clearFlags (ask 0x28#8 [] alerted)).exc = {} := by decide +kernel
theorem test_set_notices : reply .setNotices 0x29#8 [0x01#8] twoDue = bs [0, 1, 3] := by decide +kernel

theorem witness_StandbyCursorAndStrategy : (ask 0x0B#8 (standbyPayload 3 ⟨2000000, -2000000, 0⟩) field).asks
      (req 0x0B#8 (standbyPayload 3 ⟨2000000, -2000000, 0⟩)) 0x0B#8 (standbyPayload 3 ⟨2000000, -2000000, 0⟩)
    ∧ (ask 0x21#8 (natBytes 2 2048) field).asks (req 0x21#8 (natBytes 2 2048)) 0x21#8 (natBytes 2 2048)
    ∧ (ask 0x0F#8 (byte1 15) field).asks (req 0x0F#8 (byte1 15)) 0x0F#8 (byte1 15) :=
  ⟨asks_ask _ _ _ rfl, asks_ask _ _ _ rfl, asks_ask _ _ _ rfl⟩
theorem test_set_standby : (after .setStandby (ask 0x0B#8 (bs [3, 0, 0x1E, 0x84, 0x80, 0xFF, 0xE1, 0x7B, 0x80, 0, 0, 0, 0]) field)).standbyPoint 3
    = ⟨2000000, -2000000, 0⟩ := by decide +kernel
theorem test_set_cursor_past_end : reply .setCursor 0x21#8 (bs [0x08, 0x01]) field = [0x03#8] := by decide +kernel
/-- Section 3.8, step 4: active 0, pending 1. -/
theorem test_select_strategy : reply .selectStrategy 0x0F#8 [0x01#8] field = bs [0, 0, 1] := by decide +kernel

/-! ## Requests on classes, records, the aim map and the zones -/

/-- LOAD_CLASS of class 2 with the fields of `cls`, written out byte by byte from Table 10-3. -/
def loadClassBytes : List Byte := bs [2, 0, 0x13, 0x12, 0xD0, 0, 0x13, 0x12, 0xD0, 0, 0x02, 0xBF, 0x20, 0, 0, 0, 0, 0xFA, 0xD9, 0xA4,
  0x05, 0x26, 0x5C, 0xFF, 0xE7, 0x96, 0x01, 0xB7, 0x74, 0, 0, 40, 0, 50, 0x07, 0xD0, 0, 0x0F, 0xA0, 0, 0, 0, 0xFF, 0xE8, 0x90, 3, 5]

theorem test_load_class : (after .loadClass (ask 0x05#8 loadClassBytes field)).driveClass 2 = cls := by decide +kernel
theorem test_read_class : reply .readClass 0x2A#8 [0x00#8] field = bs [0, 0, 1] ++ loadClassBytes.tail := by decide +kernel
theorem witness_ClassLoad (n : Nat) : (ask 0x05#8 (classPayload n cls) field).asks (req 0x05#8 (classPayload n cls)) 0x05#8 (classPayload n cls)
    ∧ (ask 0x05#8 (classPayload n cls) (holding .onTarget)).asks (req 0x05#8 (classPayload n cls)) 0x05#8 (classPayload n cls)
    ∧ cls.inRanges = true ∧ { cls with defocus := 0 }.inRanges = false := by
  exact ⟨asks_ask _ _ _ rfl, asks_ask _ _ _ rfl, by decide +kernel, by decide +kernel⟩
theorem witness_ClassLoad_in_use : ∃ h ∈ (holding .onTarget).helios.toList,
    h.occupied = true ∧ h.cls = 0 ∧ (h.primary.isSome ∨ h.transfer.isSome) := by decide +kernel
theorem witness_ClassLoad_free :
    ∀ h ∈ field.helios.toList, h.occupied = true → h.cls = 0 → h.primary = none ∧ h.transfer = none := by decide +kernel
theorem witness_ReadClass (n : Nat) : (ask 0x2A#8 (byte1 n) field).asks (req 0x2A#8 (byte1 n)) 0x2A#8 (byte1 n) := asks_ask _ _ _ rfl

theorem witness_UndefinedCodes (k : Byte) (payload : List Byte) : (ask k payload field).asks (req k payload) k payload := asks_ask _ _ _ rfl
theorem witness_UndefinedCodes_bytes : (loadClassBytes.set 29 4#8).length = 47 ∧ 3 < ((loadClassBytes.set 29 4#8).getD 29 0#8).toNat := by decide
theorem test_undefined_round_mode : reply .loadClass 0x05#8 (loadClassBytes.set 29 4#8) field = [0x03#8] := by decide +kernel

/-- LOAD_HELIOSTAT of index 1 with the static fields of `helio` but address 17, from Table 10-3. -/
def loadHelioBytes : List Byte := bs [0, 1, 2, 17, 0, 0, 0, 0, 0, 0xFF, 0xF8, 0x5E, 0xE0, 0, 0, 0, 0, 0, 120, 0xFF, 0xDD, 0, 0, 0, 0x4E, 0x20, 0]

/-- What LOAD_HELIOSTAT carries in the witnesses. -/
def fields : Helio := { line := 2, addr := 17, pivot := ⟨0, -500000, 0⟩, azCal := 120, elCal := -35, weight := 20000 }

theorem test_load_heliostat : (after .loadHeliostat (ask 0x06#8 loadHelioBytes field)).helio 1
    = { fields with st := .idle } := by decide +kernel
theorem test_address_taken : reply .loadHeliostat 0x06#8 (loadHelioBytes.set 3 7#8) field = [0x23#8] := by decide +kernel
theorem witness_LoadHeliostat (i : Nat) (f : Helio) :
    (ask 0x06#8 (helioPayload i f) field).asks (req 0x06#8 (helioPayload i f)) 0x06#8 (helioPayload i f) := asks_ask _ _ _ rfl
theorem witness_LoadHeliostatChecks : fields.inRanges = true ∧ { fields with cls := 8 }.inRanges = false
    ∧ (field.driveClass 1).valid = false ∧ (field.driveClass 0).valid = true
    ∧ ((holding .leaving).helio 0).primary.isSome := by decide +kernel
theorem witness_LoadHeliostatChecks_taken : ∃ j < Config.nHelio, j ≠ 1 ∧ (field.helio j).occupied = true ∧ (field.helio j).line = 2
    ∧ (field.helio j).addr = 7 := ⟨0, by decide, by decide +kernel⟩
theorem witness_LoadAndRemove (i : Nat) (f : Helio) : (ask 0x06#8 (helioPayload i f) field).asks (req 0x06#8 (helioPayload i f)) 0x06#8 (helioPayload i f)
    ∧ (ask 0x07#8 (natBytes 2 i) field).asks (req 0x07#8 (natBytes 2 i)) 0x07#8 (natBytes 2 i)
    ∧ (ask 0x07#8 (natBytes 2 i) (holding .leaving)).asks (req 0x07#8 (natBytes 2 i)) 0x07#8 (natBytes 2 i) :=
  ⟨asks_ask _ _ _ rfl, asks_ask _ _ _ rfl, asks_ask _ _ _ rfl⟩
theorem witness_LoadAndRemove_alone : ∀ h ∈ field.helios.toList.tail, h.occupied = false := by decide +kernel
theorem witness_LoadAndRemove_here : fields.inRanges = true ∧ helio.inRanges = true ∧ (field.driveClass fields.cls).valid = true
    ∧ (field.helio 0).primary = none ∧ (field.helio 0).transfer = none ∧ ¬((field.helio 0).line = fields.line ∧ (field.helio 0).addr = fields.addr)
    ∧ (field.helio 2047).st = .vacant ∧ (field.helio 0).st ≠ .vacant ∧ ((holding .leaving).helio 0).primary.isSome := by decide +kernel
/-- The three shapes of a load: the same line and address, another address of a line with a member, and a line without one. -/
theorem witness_LoadAndRemove_rings : ((field.helio 0).occupied = true ∧ (field.helio 0).line = helio.line ∧ (field.helio 0).addr = helio.addr)
    ∧ field.ring fields.line ≠ [] ∧ { fields with line := 5 }.inRanges = true ∧ field.ring 5 = [] := by decide +kernel
theorem test_remove : (after .removeHeliostat (ask 0x07#8 (bs [0, 0]) field)).helio 0 = {} := by decide +kernel
theorem test_remove_reserved : reply .removeHeliostat 0x07#8 (bs [0, 0]) (holding .leaving) = [0x13#8] := by decide +kernel

/-- Every record's latch set or not, as Figure 9-3 leaves two of them. -/
def latched : State := (withHelio { helio with latched := true }).setHelio 2047 { helio with addr := 9, latched := true }

theorem witness_DutyAndRelease (i d : Nat) :
    (ask 0x08#8 (natBytes 2 i ++ byte1 d) latched).asks (req 0x08#8 (natBytes 2 i ++ byte1 d)) 0x08#8 (natBytes 2 i ++ byte1 d)
    ∧ (ask 0x09#8 (natBytes 2 i) latched).asks (req 0x09#8 (natBytes 2 i)) 0x09#8 (natBytes 2 i) ∧ (req 0x09#8 (natBytes 2 i)).work = none
    ∧ (latched.helio 0).st ≠ .vacant ∧ (latched.helio 1).st = .vacant ∧ 3 = Duty.code .outOfService :=
  ⟨asks_ask _ _ _ rfl, asks_ask _ _ _ rfl, rfl, by decide +kernel⟩
theorem witness_DutyAndRelease_work (j : Nat) :
    (asking 0x09#8 (natBytes 2 0xFFFF) (some (.release j)) latched).asks { req 0x09#8 (natBytes 2 0xFFFF) with work := some (.release j) } 0x09#8
      (natBytes 2 0xFFFF) := asks_asking _ _ _ _ rfl
theorem witness_DutyAndRelease_run : arbiter (ask 0x09#8 (natBytes 2 0xFFFF) latched) = ask 0x09#8 (natBytes 2 0xFFFF) latched := rfl
theorem test_set_duty : ((after .setDuty (ask 0x08#8 (bs [0x07, 0xFF, 3]) latched)).helio 2047).duty = .outOfService := by decide +kernel
/-- Figure 9-3, step 10, by R43: the first access takes record 0 alone; the last takes record 2047 and replies; a record latched again
after its access stays latched. -/
theorem test_release_first : ((after .releaseHeliostat (ask 0x09#8 (bs [0xFF, 0xFF]) latched)).helio 0).latched = false
    ∧ ((after .releaseHeliostat (ask 0x09#8 (bs [0xFF, 0xFF]) latched)).helio 2047).latched = true
    ∧ (after .releaseHeliostat (ask 0x09#8 (bs [0xFF, 0xFF]) latched)).workLeft = some (.release 1) := by decide +kernel
theorem test_release_last : ((after .releaseHeliostat (releasing 2047 latched)).helio 2047).latched = false
    ∧ ((after .releaseHeliostat (releasing 2047 latched)).helio 0).latched = true
    ∧ (after .releaseHeliostat (releasing 2047 latched)).link.tx.map (·.payload) = some [0x00#8] := by decide +kernel

/-- The LEAVING holder with slot 7 DRAINING, alone and with a transfer through a second DRAINING slot. -/
def draining : State := (holding .leaving).setEntry 7 { slot7 with st := .draining, users := 1 }
def twoDraining : State :=
  (draining.setEntry 9 { slot7 with st := .draining, zone := 20, users := 1 }).setHelio 0
    { draining.helio 0 with transfer := some ⟨20, 9, 8200⟩ }

theorem witness_Forget (i : Nat) : (ask 0x0A#8 (natBytes 2 i) (holding .leaving)).asks (req 0x0A#8 (natBytes 2 i)) 0x0A#8 (natBytes 2 i)
    ∧ (ask 0x0A#8 (natBytes 2 i) field).asks (req 0x0A#8 (natBytes 2 i)) 0x0A#8 (natBytes 2 i)
    ∧ (ask 0x0A#8 (natBytes 2 i) twoDraining).asks (req 0x0A#8 (natBytes 2 i)) 0x0A#8 (natBytes 2 i)
    ∧ ((holding .leaving).helio 0).st = .leaving ∧ (twoDraining.helio 0).st = .leaving ∧ (field.helio 2047).st ≠ .leaving
    ∧ (draining.entry 7).st = .draining ∧ (draining.entry 7).users ≤ 1 ∧ (twoDraining.helio 0).transfer = some ⟨20, 9, 8200⟩ :=
  ⟨asks_ask _ _ _ rfl, asks_ask _ _ _ rfl, asks_ask _ _ _ rfl, by decide +kernel⟩
/-- R61, R62: the last user frees the slot, which joins the drained list and raises DRAINED; of two, the primary's first (log 33). -/
theorem test_forget_drains : ((after .forgetHeliostat (ask 0x0A#8 (bs [0, 0]) twoDraining)).entry 7).st = .free
    ∧ (after .forgetHeliostat (ask 0x0A#8 (bs [0, 0]) twoDraining)).drained = [7, 9]
    ∧ inSet (after .forgetHeliostat (ask 0x0A#8 (bs [0, 0]) twoDraining)).notices.pend .drained = true := by decide +kernel
/-- R44, R84: the amount leaves both sums and the entry's count falls. -/
theorem test_forget : (after .forgetHeliostat (ask 0x0A#8 (bs [0, 0]) (holding .leaving))).zone 14 = ⟨60000, none, 42800, 0⟩
    ∧ ((after .forgetHeliostat (ask 0x0A#8 (bs [0, 0]) (holding .leaving))).entry 7).users = 0 := by decide +kernel

/-- LOAD_AIM of section 3.8, step 1: slot 9, strategy 1, unshared, base 64, size 1, zone 21, OPERATE, at (0, 0, 200,000). -/
def loadAimBytes : List Byte := bs [9, 1, 0, 0, 64, 0, 0, 0, 0, 0, 0, 0, 0, 0, 0, 0x03, 0x0D, 0x40, 21, 1]

theorem test_load_aim : reply .loadAim 0x0C#8 loadAimBytes map32
    = bs [0, 9, 1, 1, 0, 0, 64, 0, 0, 0, 0, 0, 0, 0, 0, 0, 0, 0x03, 0x0D, 0x40, 21, 1, 0, 0] := by decide +kernel
/-- Figure 3-3, third row: shared, base 64, size 64 meets slot 1 first. -/
theorem test_load_aim_overlap : reply .loadAim 0x0C#8 (((loadAimBytes.set 1 0#8).set 2 1#8).set 5 2#8) map32 = bs [0x20, 1] := by decide +kernel
theorem witness_LoadAim (k : Nat) (e : AimEntry) : (ask 0x0C#8 (aimPayload k e) map32).asks (req 0x0C#8 (aimPayload k e)) 0x0C#8 (aimPayload k e)
    ∧ slot7.st = .enabled ∧ slot7.users = 0 ∧ slot7.size = 8 ∧ slot7.base < 65536 := ⟨asks_ask _ _ _ rfl, rfl, rfl, rfl, by decide⟩

theorem witness_DisableWidenRead (k d : Nat) : (ask 0x0D#8 (byte1 k) map32).asks (req 0x0D#8 (byte1 k)) 0x0D#8 (byte1 k)
    ∧ (ask 0x0E#8 [BitVec.ofNat 8 k, BitVec.ofNat 8 d] map32).asks (req 0x0E#8 [BitVec.ofNat 8 k, BitVec.ofNat 8 d]) 0x0E#8
        [BitVec.ofNat 8 k, BitVec.ofNat 8 d]
    ∧ (ask 0x24#8 (byte1 k) map32).asks (req 0x24#8 (byte1 k)) 0x24#8 (byte1 k)
    ∧ (map32.entry 4).st = .enabled ∧ (map32.entry 3).st ≠ .enabled ∧ (map32.entry 63).st ≠ .enabled :=
  ⟨asks_ask _ _ _ rfl, asks_ask _ _ _ rfl, asks_ask _ _ _ rfl, by decide +kernel⟩
/-- Section 3.8, step 8: an entry with a user goes DRAINING; without users it is FREE at once (R60). -/
theorem test_disable_with_user : reply .disableAim 0x0D#8 [0x07#8] (holding .onTarget) = bs [0, 2, 0, 1] := by decide +kernel
theorem test_disable_unused : reply .disableAim 0x0D#8 [0x04#8] map32 = bs [0, 0, 0, 0] := by decide +kernel
theorem test_widen : reply .widenAim 0x0E#8 (bs [2, 2]) map32 = bs [0, 7] := by decide +kernel
theorem test_widen_draining : reply .widenAim 0x0E#8 (bs [3, 2]) map32 = [0x11#8] := by decide +kernel
theorem test_read_aim : reply .readAim 0x24#8 [0x03#8] map32
    = bs [0, 3, 2, 2, 0, 0, 64, 1, 0, 0, 0, 0, 0, 0, 0, 0, 0, 0, 0, 0, 12, 1, 0, 1] := by decide +kernel

theorem witness_SetAllowance : (ask 0x10#8 (allowancePayload 127 [16777216]) field).asks (req 0x10#8 (allowancePayload 127 [16777216])) 0x10#8
      (allowancePayload 127 [16777216])
    ∧ (ask 0x10#8 (allowancePayload 127 [0, 0]) field).asks (req 0x10#8 (allowancePayload 127 [0, 0])) 0x10#8 (allowancePayload 127 [0, 0]) :=
  ⟨asks_ask _ _ _ rfl, asks_ask _ _ _ rfl⟩
/-- Figure 4-2, step 11: the value is pending and the active allowance stays. -/
theorem test_set_allowance : (after .setAllowance (ask 0x10#8 (bs [14, 0, 0, 0x65, 0x90]) field)).zone 14 = ⟨60000, some 26000, 51000, 4000⟩ := by
  decide +kernel
theorem test_set_allowance_clamped : reply .setAllowance 0x10#8 (bs [127, 1, 0, 0, 0]) field = bs [0, 127, 0xFF, 0xFF, 0xFF] := by decide +kernel

/-! ## Mode and permit requests -/

theorem witness_StartResumeQuietWake (m : Mode) : (ask 0x11#8 [] (inMode m)).asks (req 0x11#8 []) 0x11#8 []
    ∧ (ask 0x16#8 [] (inMode m)).asks (req 0x16#8 []) 0x16#8 [] ∧ (ask 0x17#8 [] (inMode m)).asks (req 0x17#8 []) 0x17#8 []
    ∧ (ask 0x18#8 [] (inMode m)).asks (req 0x18#8 []) 0x18#8 [] ∧ (inMode m).sup.mode = m ∧ (inMode m).sup.sunPresent = true
    ∧ (inMode m).weather.stowIn.level = false ∧ (inMode m).weather.wind = .calm ∧ (inMode m).sweep.progress = none :=
  ⟨asks_ask _ _ _ rfl, asks_ask _ _ _ rfl, asks_ask _ _ _ rfl, asks_ask _ _ _ rfl, rfl, rfl, rfl, rfl, rfl⟩

/-- The sweep still in progress outside TRACKING, and in QUIET a line in its silence beside free ones. -/
def lateSweep (m : Mode) : State := { inMode m with sweep := { field.sweep with timer := .stopped } }
def quietSilent : State := (inMode .quiet).setLine 2 { field.line 2 with silence := some 10 }

theorem witness_StartResumeQuietWake_late (m : Mode) : (ask 0x11#8 [] (lateSweep m)).asks (req 0x11#8 []) 0x11#8 []
    ∧ (ask 0x16#8 [] (lateSweep m)).asks (req 0x16#8 []) 0x16#8 [] ∧ (lateSweep m).sweep.progress = some 0
    ∧ (ask 0x18#8 [] quietSilent).asks (req 0x18#8 []) 0x18#8 [] ∧ (quietSilent.line 2).silence.isSome
    ∧ ((inMode .quiet).line 2).silence = none :=
  ⟨asks_ask _ _ _ rfl, asks_ask _ _ _ rfl, rfl, asks_ask _ _ _ rfl, by decide +kernel⟩
theorem test_start_waits : (after .start (ask 0x11#8 [] (lateSweep .halted))).sweep.startWaiting = true
    ∧ (after .start (ask 0x11#8 [] (lateSweep .halted))).sweep.number = 1 := by decide +kernel
theorem test_wake_chooses : ((after .wake (ask 0x18#8 [] (inMode .quiet))).line 2).poll.isSome = true
    ∧ ((after .wake (ask 0x18#8 [] quietSilent)).line 2).poll = none := by decide +kernel
theorem test_start : reply .start 0x11#8 [] (inMode .halted) = bs [0, 1, 15] := by decide +kernel
theorem test_start_without_sun : reply .start 0x11#8 [] State.reset = bs [0x31, 0, 0] := by decide +kernel
theorem test_resume : ((after .resume (ask 0x16#8 [] (inMode .stowed))).sup.mode = .tracking)
    ∧ (after .resume (ask 0x16#8 [] (inMode .stowed))).sweep.number = 2 := by decide +kernel
theorem test_resume_settling : reply .resume 0x16#8 [] { inMode .stowed with weather := {} } = bs [0x40, 3, 1] := by decide +kernel

/-- HALT with the records from index i on still to come. -/
def halting (i : Nat) (s : State) : State := asking 0x12#8 [] (some (.halt i)) s

theorem witness_Halt (m : Mode) (i : Nat) : (ask 0x12#8 [] (inMode m)).asks (req 0x12#8 []) 0x12#8 [] ∧ (req 0x12#8 []).work = none
    ∧ (inMode m).sup.mode = m
    ∧ (halting i (inMode .halted)).asks { req 0x12#8 [] with work := some (.halt i) } 0x12#8 [] :=
  ⟨asks_ask _ _ _ rfl, rfl, rfl, asks_asking _ _ _ _ rfl⟩
theorem witness_Halt_next : (inMode .halted).nextOccupied 0 = some 0 ∧ (inMode .halted).nextOccupied 1 = none
    ∧ State.reset.nextOccupied 0 = none := by decide +kernel
theorem witness_Halt_unreserved : ∀ h ∈ (inMode .stowed).helios.toList, h.primary = none ∧ h.transfer = none := by decide +kernel
theorem witness_Halt_reserved : ∃ h ∈ (holding .onTarget).helios.toList, h.primary.isSome ∨ h.transfer.isSome := by decide +kernel
/-- R153: the first access takes the mode alone; in the record's own CLEAR becomes IDLE and a pending STANDBY is dropped. -/
def haltOnce : State := after .halt (ask 0x12#8 [] (withHelio { helio with pendingT := some ⟨.standby, 1, 2⟩ }))
theorem test_halt_mode : haltOnce.sup.mode = .halted ∧ (haltOnce.helio 0).st = .clear ∧ haltOnce.workLeft = some (.halt 0) := by decide +kernel
theorem test_halt_record : (after .halt haltOnce).helio 0 = { helio with st := .idle }
    ∧ (after .halt haltOnce).workLeft = none := by decide +kernel
theorem test_halt_reserved : reply .halt 0x12#8 [] (holding .onTarget) = bs [0x13, 1, 15] := by decide +kernel

theorem witness_GrantAndRevoke : (ask 0x13#8 [] field).asks (req 0x13#8 []) 0x13#8 [] ∧ (ask 0x14#8 [] field).asks (req 0x14#8 []) 0x14#8 []
    ∧ field.permit = true ∧ (inMode .stowed).permit = false := ⟨asks_ask _ _ _ rfl, asks_ask _ _ _ rfl, by decide, by decide⟩
theorem test_grant : reply .grantPermit 0x13#8 [] { field with sup := { field.sup with grant := false } } = bs [0, 1, 15] := by decide +kernel
theorem test_revoke : (after .revokePermit (ask 0x14#8 [] field)).sup.defocusPass = some 0
    ∧ (after .revokePermit (ask 0x14#8 [] field)).exc.flags = 0#16 := by decide +kernel

theorem witness_Stow (m : Mode) : (ask 0x15#8 [] (inMode m)).asks (req 0x15#8 []) 0x15#8 [] ∧ (inMode m).sup.mode = m := ⟨asks_ask _ _ _ rfl, rfl⟩
/-- R155: reply OK with STOWING and the permit not in force; the stow pass begins and the sweep timer stops. -/
theorem test_stow : reply .stow 0x15#8 [] field = bs [0, 2, 3] := by decide +kernel
theorem test_stow_pass_begins : (after .stow (ask 0x15#8 [] field)).sup.stowPass = some 0
    ∧ (after .stow (ask 0x15#8 [] field)).sweep.timer = .stopped := by decide +kernel

theorem test_quiet : ((after .quiet (ask 0x17#8 [] (inMode .stowed))).line 7).quiet = some 1000000 := by decide +kernel
/-- R158: the record is not stowed, so WAKE leads to STOWING. -/
theorem test_wake : reply .wake 0x18#8 [] (inMode .quiet) = bs [0, 2, 3] := by decide +kernel

/-! ## Requests that read -/

/-- The notices of a field with every source pending, two slots drained, a miss and a QUIET change. -/
def full : State :=
  { alerted with
    drained := [5, 9]
    notices := { pend := 0x3F#6, due := 0x3F#6, miss := some ⟨66, 2, .operate⟩, missCount := 3, quiet := some 600, quietCount := 1 } }

theorem witness_Reads (k : Byte) : (ask k [] full).asks (req k []) k [] := asks_ask _ _ _ rfl
theorem test_read_status_clears : (after .readStatus (ask 0x20#8 [] full)).notices.pend = 0x0D#6
    ∧ (after .readStatus (ask 0x20#8 [] full)).drained = [] := by decide +kernel
/-- Figure 9-3, step 4: the record, the flags, the masks and the count are returned; ALERT is asserted. -/
theorem test_read_fault : reply .readFault 0x25#8 [] full
    = bs [0, 1, 1, 0x03, 0x01, 0x3B, 0x0C, 7, 0x02, 0x5B, 9, 2, 0, 0x82, 0x42, 0xF8, 0, 1, 1] := by decide +kernel
theorem test_read_miss : reply .readMiss 0x26#8 [] full = bs [0, 1, 0, 66, 2, 0, 0, 3] := by decide +kernel
theorem test_read_weather_clears : (after .readWeather (ask 0x27#8 [] full)).notices.pend = 0x3B#6 := by decide +kernel

theorem witness_SegmentedReads (n z : Nat) : (ask 0x22#8 (byte1 n) field).asks (req 0x22#8 (byte1 n)) 0x22#8 (byte1 n)
    ∧ field.link.cursor ≤ 2048 ∧ (req 0x22#8 (byte1 n)).work = none
    ∧ (ask 0x23#8 [BitVec.ofNat 8 z, BitVec.ofNat 8 n] field).asks (req 0x23#8 [BitVec.ofNat 8 z, BitVec.ofNat 8 n]) 0x23#8
        [BitVec.ofNat 8 z, BitVec.ofNat 8 n] := ⟨asks_ask _ _ _ rfl, by decide, rfl, asks_ask _ _ _ rfl⟩
theorem witness_SegmentedReads_run (n : Nat) : arbiter (ask 0x22#8 (byte1 n) field) = ask 0x22#8 (byte1 n) field := by
  simp [arbiter, ask, asking, field, firstDue, inSet, State.reset]
theorem witness_SegmentedReads_work (left : Nat) : (asking 0x22#8 (byte1 8) (some (.read 0 left [helioEntry 0 helio])) field).asks
      { req 0x22#8 (byte1 8) with work := some (.read 0 left [helioEntry 0 helio]) } 0x22#8 (byte1 8)
    ∧ (helioEntry 0 helio).length ≤ 246 := ⟨asks_asking _ _ _ _ rfl, by decide +kernel⟩

/-- The two last records read from cursor 2046: the state between the two accesses. -/
def readOnce : State := after .readHeliostats (ask 0x22#8 [0x08#8] { field with link := { cursor := 2046 } })

/-- R46: with the cursor at 2046 two short entries and END, and a change of record 2046 after its access does not show; at 2048 no entry
and END. -/
theorem test_read_heliostats_end : readOnce.link.tx = none ∧ readOnce.link.cursor = 2046
    ∧ ((after .readHeliostats (readOnce.setHelio 2046 helio)).link.tx.map (·.payload))
      = some (bs [0, 0x80, 2, 1, 0x07, 0xFE, 0, 0x07, 0xFF, 0]) := by decide +kernel
theorem test_read_heliostats_past_end : reply .readHeliostats 0x22#8 [0x08#8] { field with link := { cursor := 2048 } }
    = bs [0, 0x80, 0, 1] := by decide +kernel
/-- Section 4.12: committed 51,000, leaving 4,000, projected 47,000. -/
theorem test_read_zones : reply .readZones 0x23#8 (bs [14, 1]) field
    = bs [0, 0x80, 1, 14, 0, 0, 0xEA, 0x60, 0, 0, 0, 0, 0, 0xC7, 0x38, 0, 0, 0x0F, 0xA0, 0, 0, 0xB7, 0x98] := by decide +kernel

/-! ## Sweeps and visits -/

theorem witness_SweepTimer : field.inReset = false ∧ field.sup.mode = .tracking ∧ field.sweep.timer = .running 1000
    ∧ field.sweep.progress = some 0 ∧ { field.sweep with progress := none }.progress = none
    ∧ (inMode .stowed).sweep.timer = .stopped := by decide
/-- Figure 5-1, step 2: SWEEP_OVERRUN, timer expired, start waiting. -/
theorem test_overrun : (after .sweepTimerExpiry field).sweep = { field.sweep with timer := .expired, startWaiting := true }
    ∧ (after .sweepTimerExpiry field).exc.flags = 0x4000#16 := by decide +kernel
/-- Figure 4-2, step 12, and section 3.8, step 5: a sweep start makes the pending allowance and the pending strategy active. -/
theorem test_sweep_start :
    let s : State := { field with
      sweep := { field.sweep with progress := none, pendingStrategy := some 1 }
      zones := field.zones.setIfInBounds 37 { active := 24000, pending := some 26000, committed := 17100 } }
    (after .sweepTimerExpiry s).zone 37 = ⟨26000, none, 17100, 0⟩ ∧ (after .sweepTimerExpiry s).sweep.active = 1 := by decide +kernel

/-- The class, the sun and the field meet what VisitOfClearRecord asks, for each outcome: no entry, a duty not permitted, a failed
computation, an allowance one short of the need, and the allowance that just holds it (section 4.12). -/
def allowing (n : Nat) : State := { field with zones := field.zones.setIfInBounds 14 { active := n, committed := 51000, leaving := 4000 } }

theorem witness_Visit : field.inReset = false ∧ field.visitTarget = some 0 ∧ field.sup.mode = .tracking ∧ field.permit = true
    ∧ field.sweep.snapSun = some sun ∧ sun.flags = ⟨false, false⟩ ∧ (field.helio 0).st = .clear
    ∧ (field.helio 0).lost = false ∧ (field.helio 0).isLocal = false ∧ (field.helio 0).latched = false ∧ (field.helio 0).faulted = false
    ∧ (field.helio 0).duty ≠ .outOfService := by decide +kernel
theorem witness_Visit_miss : (field.setEntry 7 {}).lookup 0 field.sweep.snapStrategy .operate = .miss := by decide +kernel
theorem witness_Visit_denied : field.lookup 0 field.sweep.snapStrategy .preheat = .denied 7 := by decide +kernel
theorem witness_Visit_found : field.lookup 0 field.sweep.snapStrategy .operate = .found 7 := by decide +kernel
theorem witness_Visit_error :
    (field.setEntry 7 { slot7 with aim := ⟨0, -500000, 0⟩ }).receiverFor sun 0 7 = .error .geometry := by decide +kernel
theorem witness_Visit_admits : (allowing 59299).receiverFor sun 0 7 = .ok (⟨.receiver, 225150, 107332⟩, 1789)
    ∧ contribution 20000 1789 950 = 8299 ∧ ((allowing 59299).zone 14).committed + 8299 ≤ ((allowing 59299).zone 14).active
    ∧ ((allowing 59298).zone 14).active < ((allowing 59298).zone 14).committed + 8299 := by decide +kernel

/-- Section 4.12, second and third variation: admitted with committed 59,299; under an allowance of 59,000 FLUX, and the record stays CLEAR. -/
theorem test_visit_admission : ((after .visit (allowing 59299)).helio 0).primary = some ⟨14, 7, 8299⟩
    ∧ (after .visit (allowing 59299)).zone 14 = ⟨59299, none, 59299, 4000⟩
    ∧ ((after .visit (allowing 59000)).helio 0).st = .clear
    ∧ ((after .visit (allowing 59000)).helio 0).lastExc = some .flux := by decide +kernel

/-- The holder under another allowance. -/
def holdingUnder (n : Nat) : State :=
  { holding .onTarget with zones := field.zones.setIfInBounds 14 { active := n, committed := 51000, leaving := 4000 } }

/-- The refresh of section 4.12, and its variation in which the holder goes LEAVING. -/
theorem test_visit_refresh_or_shed : (after .visit (holding .onTarget)).zone 14 = ⟨60000, none, 51099, 4000⟩
    ∧ ((after .visit (holding .onTarget)).helio 0).primary = some ⟨14, 7, 8299⟩
    ∧ (after .visit (holdingUnder 47050)).zone 14 = ⟨47050, none, 51000, 12200⟩
    ∧ ((after .visit (holdingUnder 47050)).helio 0).st = .leaving := by decide +kernel
theorem witness_VisitRefresh : (holding .onTarget).visitTarget = some 0 ∧ (holding .onTarget).permit = true
    ∧ ((holding .onTarget).helio 0).st = .onTarget ∧ ((holding .onTarget).helio 0).primary = some held
    ∧ ((holding .onTarget).helio 0).transfer = none ∧ held.zone < Config.nZone
    ∧ (holding .onTarget).lookup 0 (holding .onTarget).sweep.snapStrategy ((holding .onTarget).helio 0).duty = .found held.slot
    ∧ (holding .onTarget).receiverFor sun 0 held.slot = .ok (⟨.receiver, 225150, 107332⟩, 1789) := by decide +kernel
theorem witness_VisitRefresh_bounds :
    (((holdingUnder 47099).zone 14).committed : Int) - ((holdingUnder 47099).zone 14).leaving - held.amount + 8299
        ≤ ((holdingUnder 47099).zone 14).active
    ∧ ¬ (((holdingUnder 47098).zone 14).committed : Int) - ((holdingUnder 47098).zone 14).leaving - held.amount + 8299
        ≤ ((holdingUnder 47098).zone 14).active := by decide +kernel

/-- A holder OUT_OF_SERVICE, and a holder under a permit not in force. -/
def outOfService : State := (holding .approach).setHelio 0 { (holding .approach).helio 0 with duty := .outOfService }
def notPermitted : State := { holding .retarget with sup := { (holding .retarget).sup with grant := false } }

/-- A field under a stale or a low sun, and one that has left TRACKING with its sweep in progress. -/
def underSun (flags : SunFlags) (s : State) : State := { s with sweep := { s.sweep with snapSun := some { sun with flags := flags } } }
def haltedSweep : State := { field with sup := { field.sup with mode := .halted } }

theorem witness_VisitWithout : outOfService.visitTarget = some 0 ∧ outOfService.sup.mode = .tracking
    ∧ (outOfService.helio 0).duty = .outOfService ∧ (outOfService.helio 0).holder = true
    ∧ ((withHelio { helio with duty := .outOfService }).helio 0).holder = false
    ∧ notPermitted.visitTarget = some 0 ∧ notPermitted.permit = false ∧ (notPermitted.helio 0).st = .retarget
    ∧ (notPermitted.helio 0).duty ≠ .outOfService ∧ outOfService.inReset = false ∧ notPermitted.inReset = false
    ∧ haltedSweep.visitTarget = some 0 ∧ haltedSweep.sup.mode ≠ .tracking := by decide +kernel
theorem witness_VisitWithout_standby : (withHelio { helio with lost := true }).visitTarget = some 0
    ∧ ((holding .leaving).helio 0).st = .leaving ∧ (latched.helio 0).latched = true ∧ latched.visitTarget = some 0
    ∧ (∀ u, (underSun ⟨true, false⟩ field).sweep.snapSun = some u → u.flags.stale = true ∨ u.flags.low = true)
    ∧ (∀ u, (underSun ⟨false, true⟩ (holding .onTarget)).sweep.snapSun = some u → u.flags.stale = true ∨ u.flags.low = true) := by
  refine ⟨by decide +kernel, by decide +kernel, by decide +kernel, by decide +kernel, fun u e => ?_, fun u e => ?_⟩ <;> cases e <;> decide
/-- Figure 5-3, steps 3 and 5. -/
theorem test_visit_without : (after .visit (withHelio { helio with lost := true })).helio 0 = { helio with lost := true }
    ∧ ((after .visit outOfService).helio 0).pendingT = some ⟨.stow, 0, -6000⟩
    ∧ (after .visit outOfService).zone 14 = ⟨60000, none, 51000, 12200⟩ := by decide +kernel
/-- R101: a holder under a stale sun is offered DEFOCUS (e0 107,000 plus 4,000, R21), under a low one STANDBY. -/
theorem test_visit_sun : ((after .visit (underSun ⟨true, false⟩ (holding .onTarget))).helio 0).pendingT = some ⟨.defocus, 224000, 111000⟩
    ∧ ((after .visit (underSun ⟨false, true⟩ (holding .onTarget))).helio 0).pendingT.map (·.kind) = some .standby := by decide +kernel

/-- The holder with slot 9 matching in its place: in the same zone, slot 7 DRAINING; and, under strategy 1, in zone 20 with allowance n. -/
def sameZone : State := ((holding .onTarget).setEntry 7 { slot7 with st := .draining, users := 1 }).setEntry 9 slot7
def crossZone (n : Nat) : State :=
  let s := (holding .onTarget).setEntry 9 { slot7 with strategy := 1, zone := 20 }
  { s with sweep := { s.sweep with snapStrategy := 1 }, zones := s.zones.setIfInBounds 20 { active := n } }
/-- The same with FLUX unmasked, and with the transfer held. -/
def fluxUnmasked (n : Nat) : State := { crossZone n with exc := { masks := 0#16 } }
def moving : State := (crossZone 9000).setHelio 0 { helio with
  st := .retarget, primary := some held, transfer := some ⟨20, 9, 8200⟩, lastRecv := some (224000, 107000) }

theorem witness_VisitMovesHolder : (holding .onTarget).lookup 0 0 .operate = .found held.slot
    ∧ ((holding .onTarget).setEntry 7 {}).lookup 0 0 .operate = .miss ∧ (holding .onTarget).lookup 0 0 .preheat = .denied 7
    ∧ sameZone.visitTarget = some 0 ∧ sameZone.sweep.snapSun = some sun ∧ sameZone.permit = true ∧ sameZone.inReset = false
    ∧ (sameZone.helio 0).st = .onTarget ∧ (sameZone.helio 0).primary = some held ∧ (sameZone.helio 0).transfer = none
    ∧ sameZone.lookup 0 sameZone.sweep.snapStrategy (sameZone.helio 0).duty = .found 9 ∧ 9 ≠ held.slot ∧ (sameZone.entry 9).zone = held.zone
    ∧ sameZone.receiverFor sun 0 9 = .ok (⟨.receiver, 225150, 107332⟩, 1789) := by decide +kernel
theorem witness_VisitMovesHolder_cross : (crossZone 8299).visitTarget = some 0
    ∧ (crossZone 8299).lookup 0 (crossZone 8299).sweep.snapStrategy ((crossZone 8299).helio 0).duty = .found 9
    ∧ (crossZone 8299).receiverFor sun 0 9 = .ok (⟨.receiver, 225150, 107332⟩, 1789)
    ∧ ((crossZone 8299).zone 20).committed + 8299 ≤ ((crossZone 8299).zone 20).active
    ∧ ((crossZone 8298).zone 20).active < ((crossZone 8298).zone 20).committed + 8299
    ∧ (crossZone 8298).exc.masked .flux = true ∧ ((crossZone 8298).entry 7).st = .enabled ∧ (fluxUnmasked 8298).exc.masked .flux = false := by
  decide +kernel
theorem witness_VisitMovesHolder_retarget : moving.visitTarget = some 0 ∧ (moving.helio 0).st = .retarget
    ∧ (moving.helio 0).primary = some held ∧ (moving.helio 0).transfer = some ⟨20, 9, 8200⟩
    ∧ moving.lookup 0 moving.sweep.snapStrategy (moving.helio 0).duty = .found 9
    ∧ ({ moving with sweep := field.sweep }).lookup 0 field.sweep.snapStrategy (moving.helio 0).duty = .found 7 := by decide +kernel
/-- R80 and R104: the user moves, and the last user of slot 7 drains it (R61). -/
theorem test_visit_same_zone : ((after .visit sameZone).helio 0).primary = some ⟨14, 9, 8299⟩ ∧ ((after .visit sameZone).helio 0).st = .approach
    ∧ ((after .visit sameZone).entry 7).st = .free ∧ (after .visit sameZone).drained = [7] := by decide +kernel
/-- R75 and R105: the transfer is admitted and the primary frozen; R106: one fu short, FLUX masked keeps the old aim, unmasked it does
not. -/
theorem test_visit_crosses_zone : ((after .visit (crossZone 8299)).helio 0).transfer = some ⟨20, 9, 8299⟩
    ∧ ((after .visit (crossZone 8299)).helio 0).primary = some held ∧ ((after .visit (crossZone 8299)).helio 0).st = .retarget
    ∧ ((after .visit (crossZone 8298)).helio 0).primary = some ⟨14, 7, 8299⟩
    ∧ ((after .visit (crossZone 8298)).helio 0).lastExc = some .flux
    ∧ ((after .visit (fluxUnmasked 8298)).helio 0).st = .leaving
    ∧ ((after .visit (fluxUnmasked 8298)).helio 0).latched = true := by decide +kernel
/-- R78 and R107: the transfer is refreshed alone; a match at another slot sends the record off with no exception. -/
theorem test_visit_in_retarget : ((after .visit moving).helio 0).transfer = some ⟨20, 9, 8299⟩ ∧ ((after .visit moving).helio 0).primary = some held
    ∧ ((after .visit { moving with sweep := field.sweep }).helio 0).st = .leaving
    ∧ (after .visit { moving with sweep := field.sweep }).exc.flags = 0#16 := by decide +kernel

/-- A sweep that stands at an index. -/
def sweepAt (i : Nat) (waiting : Bool) : State :=
  { field with sweep := { field.sweep with timer := .expired, progress := some i, startWaiting := waiting } }

theorem witness_VacantIndex : (sweepAt 2047 true).inReset = false ∧ (sweepAt 2047 true).sweep.progress = some 2047
    ∧ ((sweepAt 2047 true).helio 2047).st = .vacant ∧ (sweepAt 2047 true).sup.mode = .tracking
    ∧ (sweepAt 1 false).sweep.progress = some 1 ∧ ((sweepAt 1 false).helio 1).st = .vacant := by decide +kernel
theorem test_vacant_passed : (after .vacantIndexPassed (sweepAt 1 false)).sweep.progress = some 2 := by decide +kernel
/-- Figure 5-1, step 3: the sweep ends and the waiting start begins the next. -/
theorem test_waiting_start : (after .vacantIndexPassed (sweepAt 2047 true)).sweep.progress = some 0
    ∧ (after .vacantIndexPassed (sweepAt 2047 true)).sweep.timer = .running 4000 := by decide +kernel

/-! ## Protective passes -/

/-- The holder with a stow pass, and with a defocus pass, at an index. -/
def stowing (p : Nat) : State := { holding .approach with sup := { field.sup with mode := .stowing, stowPass := some p } }
def defocusing (p : Nat) : State := { holding .onTarget with sup := { field.sup with defocusPass := some p } }

/-- A defocus pass that stands at a record which holds nothing. -/
def passing : State := { field with sup := { field.sup with defocusPass := some 0 } }

theorem witness_Passes : (stowing 0).inReset = false ∧ (stowing 0).sup.stowPass = some 0 ∧ (stowing 0).nextOccupied 0 = some 0
    ∧ (stowing 2047).nextOccupied 2047 = none ∧ (defocusing 0).sup.defocusPass = some 0 ∧ (defocusing 0).nextOccupied 0 = some 0
    ∧ ((defocusing 0).helio 0).holder = true ∧ (passing.helio 0).holder = false ∧ passing.nextOccupied 0 = some 0
    ∧ (defocusing 2047).nextOccupied 2047 = none := by decide +kernel
/-- R161: a record that is no holder is passed; the step of the last occupied record ends the pass (log 11). -/
theorem test_defocus_passes : (after .defocusPassStep passing).helio 0 = helio ∧ (after .defocusPassStep passing).sup.defocusPass = none
    ∧ (after .defocusPassStep (passing.setHelio 7 { helio with addr := 9 })).sup.defocusPass = some 1 := by decide +kernel
/-- Figure 8-2, step 2. -/
theorem test_stow_pass : ((after .stowPassStep (stowing 0)).helio 0).pendingT = some ⟨.stow, 0, -6000⟩
    ∧ (after .stowPassStep (stowing 0)).zone 14 = ⟨60000, none, 51000, 12200⟩ := by decide +kernel
/-- Figure 5-4, step 3; e0 107,000 plus the offset 4,000 (R21). -/
theorem test_defocus_pass : ((after .defocusPassStep (defocusing 0)).helio 0).pendingT = some ⟨.defocus, 224000, 111000⟩
    ∧ ((after .defocusPassStep (defocusing 0)).helio 0).st = .leaving := by decide +kernel

/-! ## Posting -/

/-- The record of Figure 2-2. -/
def posted (p : Option Target) : Helio := { helio with commanded := some ⟨.receiver, 225150, 107332⟩, pendingT := p }

theorem witness_Posting_kinds : TargetKind.urgent .stow = true ∧ (withHelio helio).helio 0 = helio ∧ helio.st ≠ .vacant
    ∧ (field.helio 1).st = .vacant := by decide +kernel
theorem witness_Posting : (posted none).pendingT = none ∧ (posted (some ⟨.stow, 0, 0⟩)).pendingT = some ⟨.stow, 0, 0⟩
    ∧ TargetKind.urgent .defocus = true ∧ TargetKind.defocus ≠ .stow := by decide
/-- Figure 2-2, steps 1, 2, 4 and 6. -/
theorem test_post_suppressed : (posted none).post 40 ⟨.receiver, 225170, 107340⟩ = posted none := by decide +kernel
theorem test_post_outside_deadband : ((posted none).post 40 ⟨.receiver, 225210, 107345⟩).pendingT = some ⟨.receiver, 225210, 107345⟩ := by
  decide +kernel
theorem test_post_defocus_replaces : ((posted (some ⟨.receiver, 225210, 107345⟩)).post 40 ⟨.defocus, 225150, 111332⟩).pendingT
    = some ⟨.defocus, 225150, 111332⟩ := by decide +kernel
theorem test_post_standby_refused : ((posted (some ⟨.defocus, 225150, 111332⟩)).post 40 ⟨.standby, 190400, 40210⟩).pendingT
    = some ⟨.defocus, 225150, 111332⟩ := by decide +kernel

/-! ## Field lines -/

/-- Line FL3 of section 6.8 with its four members; records 0 to 3 stand for 600 to 603. -/
def fl3 : State :=
  let r (a : Nat) (c p : Option Target) : Helio := { st := .leaving, line := 3, addr := a, commanded := c, pendingT := p, primary := some held }
  let s := (((field.setHelio 0 (r 2 none (some ⟨.defocus, 225150, 111332⟩))).setHelio 1
    { r 5 (some ⟨.standby, 190400, 40210⟩) none with st := .clear, primary := none }).setHelio 2
    (r 9 none (some ⟨.defocus, -224850, 102000⟩))).setHelio 3 (r 14 none (some ⟨.defocus, 120000, 105500⟩))
  s.setLine 3 { s.line 3 with rr := some 9 }

/-- A poll to the record at index 0, address 7 of line 2, in a phase. -/
def poll (move : Option Target) (ph : PollPhase) : Poll :=
  { helio := 0, addr := 7, move := move, void := false, watch := 30, timeout := 2, phase := ph }

/-- A state whose record 0 is h with that poll in flight. -/
def polling (h : Helio) (p : Poll) : State := (withHelio h).setLine 2 { (withHelio h).line 2 with poll := some p }

theorem witness_PollPhases : (State.reset.line 7).silence = some 25000 ∧ State.reset.inReset = false
    ∧ ((polling helio (poll none .sending)).line 2).poll = some (poll none .sending)
    ∧ ((polling helio (poll none (.awaiting 2000))).line 2).poll = some (poll none (.awaiting 2000)) := by decide +kernel
theorem test_silence_ends :
    ((after (.lineSilenceExpiry 2) (field.setLine 2 { field.line 2 with silence := some 1 })).line 2).poll = some (poll none .sending) := by
  decide +kernel
theorem test_poll_sent : ((after (.pollFrameSent 2) (polling helio (poll none .sending))).line 2).poll = some (poll none (.awaiting 2000)) := by
  decide +kernel
theorem test_reply_sync : ((after (.replySyncReceived 2) (polling helio (poll none (.awaiting 1)))).line 2).poll = some (poll none .receiving) := by
  decide +kernel

theorem witness_PollChoice : fl3.sup.mode ≠ .quiet ∧ (fl3.line 3).poll = none ∧ (fl3.line 3).silence = none ∧ fl3.ring 3 ≠ []
    ∧ fl3.ring 4 = [] := by decide +kernel
/-- Figure 6-5, steps 3 and 11: the lowest urgent address, the position kept; without urgent targets round robin after 14 wraps. -/
theorem test_urgent_choice : ((choosePoll 3 fl3).line 3).poll.map (·.addr) = some 2 ∧ ((choosePoll 3 fl3).line 3).rr = some 9 := by
  decide +kernel
theorem test_round_robin_wraps : roundRobin (some 14) (fl3.ring 3) = some (2, 0) := by decide +kernel

theorem witness_Miss : (polling helio (poll none (.awaiting 1))).inReset = false
    ∧ ((polling { helio with misses := 2 } (poll none (.awaiting 1))).line 2).poll = some (poll none (.awaiting 1))
    ∧ min 15 (2 + 1) < field.limits.lostLimit ∧ field.limits.lostLimit ≤ min 15 (3 + 1) ∧ min 15 (15 + 1) = 15
    ∧ (poll none .receiving).phase = .receiving ∧ { poll none .receiving with void := true }.void = true
    ∧ ((polling { helio with lost := true } (poll none .receiving)).helio 0).lost = true
    ∧ (holding .onTarget).sup.mode ≠ .quiet ∧ (inMode .quiet).sup.mode = .quiet ∧ ((inMode .quiet).helio 0).lost = false := by decide +kernel
/-- Figure 6-5, step 8, and Figure 9-3, step 2: the fourth miss sets LOST and latches. -/
theorem test_first_miss : ((after (.replyTimeout 2) (polling helio (poll none (.awaiting 1)))).helio 0) = { helio with misses := 1 } := by decide +kernel
theorem test_fourth_miss : ((after (.replyGapTimeout 2) (polling { helio with misses := 3 } (poll none .receiving))).helio 0)
    = { helio with misses := 4, lost := true, latched := true, lastExc := some .driveLost } := by decide +kernel
/-- R121, R129: a holder that is lost goes LEAVING, its amount joins the leaving sum, and DEFOCUS is offered. -/
def losing : State := (holding .onTarget).setHelio 0 { (holding .onTarget).helio 0 with misses := 3 }
theorem test_lost_holder :
    let t := after (.replyTimeout 2) (losing.setLine 2 { losing.line 2 with poll := some (poll none (.awaiting 1)) })
    t.zone 14 = ⟨60000, none, 51000, 12200⟩ ∧ (t.helio 0).st = .leaving ∧ (t.helio 0).pendingT = some ⟨.defocus, 224000, 111000⟩
      ∧ t.exc.fault = some ⟨.driveLost, 0, some 0, some 14, some 7⟩ := by decide +kernel
theorem test_framing_miss : ((after (.replyFramingError 2) (polling helio (poll none .receiving))).helio 0).misses = 1 := by decide +kernel

theorem witness_DriveReply : ((polling helio (poll none .receiving)).line 2).poll = some (poll none .receiving)
    ∧ [0x00#8, 0x00#8] ≠ crcBytes (List.replicate 9 0x00#8) ∧ (255 : Nat) ≠ (poll none .receiving).addr := by decide +kernel

/-- Heliostat 600 of Figure 6-4, here at index 0. -/
def h600 (st : HState) (cmd : Target) (pend : Option Target) : State :=
  polling { helio with st := st, commanded := some cmd, pendingT := pend, lastRecv := some (225150, 107332), primary := some held, lag := 1 }
    (poll none .receiving)

theorem witness_ValidReply : ((h600 .approach ⟨.receiver, 225150, 107332⟩ none).helio 0).st = .approach
    ∧ ((h600 .approach ⟨.receiver, 225150, 107332⟩ none).line 2).poll = some (poll none .receiving)
    ∧ ((h600 .approach ⟨.receiver, 225150, 107332⟩ none).helio 0).arrived cls ⟨225120, 107300, true, 0⟩ = true
    ∧ ((h600 .leaving ⟨.defocus, 225150, 111332⟩ none).helio 0).away cls ⟨225150, 109332, false, 0⟩ = true
    ∧ ((h600 .leaving ⟨.defocus, 225150, 111332⟩ none).helio 0).away cls ⟨225150, 109331, false, 0⟩ = false
    ∧ (h600 .approach ⟨.receiver, 225150, 107332⟩ none).sup.mode = .tracking := by decide +kernel

/-- Heliostat 600 in RETARGET, moving from slot 7 of zone 14 to slot 9 of zone 20; and ON_TARGET with a lag count. -/
def h600Moving : State :=
  let s := h600 .retarget ⟨.receiver, 225150, 107332⟩ none
  (s.setHelio 0 { s.helio 0 with transfer := some ⟨20, 9, 8200⟩ }).setEntry 7 { slot7 with st := .draining, users := 1 }
def h600Lag (st : HState) (n : Nat) : State :=
  let s := h600 st ⟨.receiver, 225150, 107332⟩ none
  s.setHelio 0 { s.helio 0 with lag := n }

theorem witness_ValidReply_cases : (h600Moving.helio 0).st = .retarget ∧ (h600Moving.helio 0).primary = some held
    ∧ (h600Moving.helio 0).transfer = some ⟨20, 9, 8200⟩ ∧ (h600Moving.helio 0).arrived cls ⟨225120, 107300, true, 0⟩ = true
    ∧ ((h600Lag .approach 2).helio 0).arrived cls ⟨225120, 107300, false, 0⟩ = false
    ∧ decide (cls.approachLimit ≤ min 255 (2 + 1)) = true ∧ decide (cls.approachLimit ≤ min 255 (1 + 1)) = false
    ∧ decide (cls.lagLimit ≤ min 255 (4 + 1)) = true ∧ decide (cls.lagLimit ≤ min 255 (3 + 1)) = false
    ∧ (decide ((4 : Nat) ≠ 0) && !helio.faulted) = true ∧ (true && !helio.isLocal) = true
    ∧ (polling helio (poll none .receiving)).sup.mode ≠ .quiet := by decide +kernel
/-- R85: arrival releases the old reservation, which drains its slot, and promotes the transfer. -/
theorem test_retarget_arrival :
    let t := after (.driveReply 2 (replyBytes ⟨225120, 107300, true, 0⟩ 7 false false)) h600Moving
    (t.helio 0).primary = some ⟨20, 9, 8200⟩ ∧ (t.helio 0).transfer = none ∧ t.drained = [7]
      ∧ t.zone 14 = ⟨60000, none, 42800, 4000⟩ := by decide +kernel
/-- R126, R127: the third late reply of an approach limit of 3 raises LAG and sends the record off; the second does not. -/
theorem test_lag : (let t := after (.driveReply 2 (replyBytes ⟨220000, 107300, false, 0⟩ 7 false false)) (h600Lag .approach 2)
    (t.helio 0).st = .leaving ∧ (t.helio 0).lastExc = some .lag ∧ (t.helio 0).pendingT.map (·.kind) = some .defocus)
    ∧ (((after (.driveReply 2 (replyBytes ⟨220000, 107300, false, 0⟩ 7 false false)) (h600Lag .approach 1)).helio 0).st,
     ((after (.driveReply 2 (replyBytes ⟨220000, 107300, false, 0⟩ 7 false false)) (h600Lag .approach 1)).helio 0).lag) = (.approach, 2) := by decide +kernel
/-- Figure 6-4, steps 2 and 7: arrival within the tolerance; away at 2,018 counts. -/
theorem test_arrival_and_away : ((after (.driveReply 2 (replyBytes ⟨225120, 107300, true, 0⟩ 7 false false))
      (h600 .approach ⟨.receiver, 225150, 107332⟩ none)).helio 0).st = .onTarget
    ∧ ((after (.driveReply 2 (replyBytes ⟨225150, 109350, false, 0⟩ 7 false false))
      (h600 .leaving ⟨.defocus, 225150, 111332⟩ none)).helio 0).primary = none := by decide +kernel

theorem witness_QuietTimer : (allDue.line 2).quiet = some 1 ∧ { fl3 with sup := { fl3.sup with mode := .quiet } }.sup.mode = .quiet
    ∧ (fl3.line 3).poll = none ∧ (fl3.line 3).silence = none ∧ fl3.ring 3 ≠ [] := by decide +kernel
/-- R117: in QUIET the poll is a QUERY although a DEFOCUS is pending, and the quiet timer is reloaded. -/
theorem test_quiet_poll :
    let s := ({ fl3 with sup := { fl3.sup with mode := .quiet } }).setLine 3 { fl3.line 3 with quiet := some 1 }
    ((after (.quietTimerExpiry 3) s).line 3).poll.map (fun p => (p.addr, p.move)) = some (14, none)
    ∧ ((after (.quietTimerExpiry 3) s).line 3).quiet = some 1000000 := by decide +kernel

/-! ## Weather and the supervisor's timers -/

/-- The field with other weather. -/
def withWeather (w : Weather) : State := { field with weather := w }

theorem witness_Anemometer : (withWeather { chain := .timing 999 0 }).weather.chain = .timing 999 0
    ∧ (withWeather { chain := .timing 1000 0 }).weather.chain = .timing 1000 0
    ∧ (withWeather { chain := .timing 0 63 }).weather.chain = .timing 0 63 ∧ State.reset.weather.chain = .idle := by decide
/-- Figure 7-2, steps 3, 4 and 7. -/
theorem test_edge : (after .anemoEdge (withWeather { chain := .timing 4464 1 })).weather.speed = 10000 := by decide +kernel
theorem test_edge_ignored : (after .anemoEdge (withWeather { chain := .timing 400 0, speed := 10000 })).weather.chain = .timing 400 0 := by
  decide +kernel
theorem test_last_wrap : (after .captureWrap (withWeather { chain := .timing 65535 63, speed := 80000 })).weather.chain = .idle
    ∧ (after .captureWrap (withWeather { chain := .timing 65535 63, speed := 80000 })).weather.speed = 0 := by decide +kernel

/-- Figure 7-3 before the n-th sample of 18,000. -/
def gustFront (n : Nat) (wind : Wind) : State :=
  withWeather { wind := wind, speed := 18000, ring := List.replicate (241 - n) 4000 ++ List.replicate (n - 1) 18000 }

theorem witness_WindSample : (gustFront 10 .settling).inReset = false ∧ (gustFront 10 .settling).weather.ring.length ≤ 240
    ∧ State.reset.weather.ring.length ≤ 240 := by decide +kernel
theorem test_gust_settling : (after .windSample (gustFront 6 .calm)).weather.wind = .settling
    ∧ (after .windSample (gustFront 6 .calm)).weather.gust = 11000 := by decide +kernel
theorem test_gust_windy : (after .windSample (gustFront 10 .settling)).sup.mode = .stowing
    ∧ (after .windSample (gustFront 10 .settling)).exc.flags = 0x0400#16 := by decide +kernel

theorem witness_Conversion : (withWeather { conv := .converting 1 }).weather.conv = .converting 1
    ∧ (withWeather { conv := .reading }).weather.conv = .reading ∧ (0xFFFE#16 : BitVec 16) ≠ 0xFFFF#16
    ∧ (withWeather { conv := .reading, sensorFault := true }).weather.sensorFault = true := by decide
theorem test_conversion_start : (after .conversionStart field).weather.conv = .converting 20000 := by decide +kernel
theorem test_dni_ready : (after .dniReady (withWeather { conv := .converting 5 })).dniCs = true := by decide +kernel
/-- Figure 7-5, steps 1, 3 and 5. -/
theorem test_reading_rise : (after (.conversionComplete 41000#16) (withWeather { conv := .reading, dni := 800 })).weather.dni = 938 := by decide +kernel
theorem test_reading_decay : (after (.conversionComplete 13107#16) (withWeather { conv := .reading })).weather.dni = 990 := by decide +kernel
theorem test_ready_timeout : (after .dniReadyTimeout (withWeather { conv := .converting 1, dni := 980 })).weather.dni = 1000
    ∧ (after .dniReadyTimeout (withWeather { conv := .converting 1, dni := 980 })).exc.flags = 0x8000#16 := by decide +kernel

theorem witness_LineFilters : (withWeather { stowIn := ⟨true, false, some 1⟩, permitIn := ⟨false, true, some 1⟩ }).weather.stowIn.hold = some 1
    ∧ (withWeather { permitIn := ⟨false, true, some 1⟩ }).permit = true
    ∧ (withWeather { permitIn := ⟨true, false, some 1⟩ }).permit = false := by decide
/-- R147: the pin's return to the filtered level discards the timer; ten ms held is a change. Figure 5-4, step 2, for PERMIT. -/
theorem test_pin_returns : (after (.linePinChange .stow false) (withWeather { stowIn := ⟨true, false, some 1⟩ })).weather.stowIn = ⟨false, false, none⟩ := by
  decide +kernel
theorem test_permit_drop : (after (.lineFilterExpiry .permit) (withWeather { permitIn := ⟨false, true, some 1⟩ })).sup.defocusPass = some 0
    ∧ (after (.lineFilterExpiry .permit) (withWeather { permitIn := ⟨false, true, some 1⟩ })).exc.flags = 0x1000#16 := by decide +kernel
theorem test_stow_line : (after (.lineFilterExpiry .stow) (withWeather { stowIn := ⟨true, false, some 1⟩ })).sup.mode = .stowing := by decide +kernel

theorem witness_SupervisorTimers : field.inReset = false ∧ field.permit = true ∧ allDue.sup.plantTime = 86399999 ∧ field.sup.plantTime ≠ 86399999 := by decide
/-- R163: LINK_SILENT and, the permit having been in force, PERMIT_DROP. -/
theorem test_silence : (after .silenceExpiry field).exc.flags = 0x3000#16 ∧ (after .silenceExpiry field).sup.grant = false := by decide +kernel
theorem test_time_wrap : (after .plantTimeWrap allDue).sup.plantTime = 0 := by decide +kernel

theorem witness_Occurrence : field.exc.masks.getLsbD ExcKind.flux.code = true ∧ field.exc.masks.getLsbD ExcKind.driveLost.code = false
    ∧ field.exc.fault = none ∧ alerted.exc.fault.isSome ∧ alerted.exc.alert = true ∧ field.exc.alert = false := by decide
/-- R169, R170: masked, the flag alone; unmasked, an empty record is filled and a filled one kept, and the count rises. -/
theorem test_occurrence_masked : (raiseHelio .flux 0 (some 14) (some 7) field).exc = { field.exc with flags := 0x0080#16 } := by decide +kernel
theorem test_occurrence_fills : (raiseField .linkSilent field).exc.fault = some ⟨.linkSilent, 0, none, none, none⟩
    ∧ (raiseField .linkSilent field).exc.count = 1 ∧ inSet (raiseField .linkSilent field).notices.pend .alert = true := by decide +kernel
theorem test_occurrence_kept : (raiseField .linkSilent alerted).exc.fault = some ⟨.driveLost, 50412300, some 603, some 9, some 2⟩
    ∧ (raiseField .linkSilent alerted).exc.count = 2 := by decide +kernel

/-! ## The laws of a run: a state that meets them, from which a step leads on -/

/-- A stowed field that holds no record. -/
def stowed : State := { State.reset with sup := { State.reset.sup with mode := .stowed } }

theorem stowed_helio (h : Helio) (m : h ∈ stowed.helios.toList) : h = {} := by
  have e : stowed.helios.toList = List.replicate 2048 {} := Vector.toList_replicate
  rw [e] at m
  exact List.eq_of_mem_replicate m

theorem stowed_entry (k : Nat) : stowed.entry k = {} := by
  show (Vector.replicate Config.nSlot ({} : AimEntry))[k]?.getD {} = {}
  rw [Vector.getElem?_replicate]; split <;> rfl

theorem stowed_zone (z : Nat) : stowed.zone z = {} := by
  show (Vector.replicate Config.nZone ({} : Zone))[z]?.getD {} = {}
  rw [Vector.getElem?_replicate]; split <;> rfl

theorem sum_const_zero (l : List Helio) (f : Helio → Nat) (h : ∀ x ∈ l, f x = 0) : (l.map f).sum = 0 := by
  induction l with
  | nil => rfl
  | cons a t ih => simp [h a (by simp), ih fun x m => h x (by simp [m])]

theorem witness_AlertLaw : stowed.AlertLaw := by
  simp [State.AlertLaw, stowed, State.reset]

theorem witness_LedgerLaw : stowed.LedgerLaw where
  sums z _ := by
    rw [stowed_zone]
    refine ⟨(sum_const_zero _ _ fun x m => ?_).symm, (sum_const_zero _ _ fun x m => ?_).symm⟩ <;> rw [stowed_helio x m] <;> rfl
  users k _ := by
    rw [stowed_entry]
    exact (sum_const_zero _ _ fun x m => by rw [stowed_helio x m]; rfl).symm
  records h m := by
    rw [stowed_helio h m]
    exact ⟨⟨⟨rfl, rfl⟩, fun r m => by cases m⟩, by decide⟩
  free k _ _ := by rw [stowed_entry]
  zoneOf k _ := by rw [stowed_entry]; decide
  dni := by decide

theorem witness_TablesStayDistinct : stowed.NoConflict ∧ stowed.UniqueAddress := by
  constructor
  · intro j k _ e
    simp [stowed, State.reset] at e
  · intro i j _ e
    simp [stowed, State.reset] at e

theorem witness_ModeLaw : stowed.ModeLaw := by
  constructor <;> simp [stowed, State.reset]

theorem witness_TravelLaw : stowed.TravelLaw where
  classes c m := by
    have e : stowed.classes.toList = List.replicate 8 {} := Vector.toList_replicate
    rw [e] at m
    rw [List.eq_of_mem_replicate m]
    simp [Target.inTravel, stowTarget]
  records h m e := by rw [stowed_helio h m] at e; exact absurd rfl e

theorem witness_RangeLaw : stowed.RangeLaw where
  limits := by constructor <;> decide
  weather := by constructor <;> simp [stowed, State.reset]
  time := by decide
  strategy := by simp [stowed, State.reset]
  number := by decide
  position := by simp [stowed, State.reset]
  cursor := by decide
  queue := by decide
  work r m := by simp [stowed, State.reset] at m
  fullList := by decide
  counts := by decide
  allowance z m := by
    have e : stowed.zones.toList = List.replicate 128 {} := Vector.toList_replicate
    rw [e] at m
    rw [List.eq_of_mem_replicate m]
    simp
  records h m := by rw [stowed_helio h m]; simp

theorem witness_step : ∃ t, step stowed = .next t := ⟨_, rfl⟩
theorem witness_Leaving : ((holding .leaving).helio 0).st = .leaving
    ∧ ∃ t, step { holding .leaving with pending := [.visit] } = .next t := ⟨by decide +kernel, _, rfl⟩
theorem witness_Created : (field.helio 0).gains ((after .visit field).helio 0) = some ⟨14, 7, 8299⟩
    ∧ ({ field with pending := [.visit] } : State).pending = [.visit] := by decide +kernel
theorem witness_Configuration : (∃ t, exec .visit field = .next t) ∧ Instr.visit ≠ .coldReset := ⟨⟨_, rfl⟩, by decide⟩

end Sys2Proof.Tests
end

section
/-! The posting rule on one record (O38, R33 to R35). Table 2-5 is an order: each kind has an urgency rank, and an offer replaces the
pending target exactly when that target's rank is no higher. -/

namespace Sys2Proof.Machine

/-! ## Urgency ranks -/

/-- The urgency rank of R35: STOW above DEFOCUS above the kinds that are not urgent. -/
def TargetKind.rank : TargetKind → Nat
  | .receiver | .standby => 0
  | .defocus => 1
  | .stow => 2

theorem urgent_iff_rank (k : TargetKind) : k.urgent = true ↔ 0 < k.rank := by
  cases k <;> simp [TargetKind.urgent, TargetKind.rank]

theorem urgent_iff_defocus_or_stow (k : TargetKind) : k.urgent = true ↔ k = .defocus ∨ k = .stow := by
  cases k <;> simp [TargetKind.urgent]

/-- Table 2-5 by rank. -/
theorem replaces_iff_rank (k p : TargetKind) : k.replaces p = true ↔ p.rank ≤ k.rank := by
  cases k <;> cases p <;> simp [TargetKind.replaces, TargetKind.urgent, TargetKind.rank]

/-- Table 2-5 kind by kind. -/
theorem replaces_iff_kind (k p : TargetKind) : k.replaces p = true ↔
    k = .stow ∨ (k = .defocus ∧ p ≠ .stow) ∨ ((k = .receiver ∨ k = .standby) ∧ (p = .receiver ∨ p = .standby)) := by
  cases k <;> cases p <;> simp [TargetKind.replaces, TargetKind.urgent]

/-- An urgent kind shares its rank with no other kind. -/
theorem rank_ne_of_urgent {k l : TargetKind} (u : k.urgent = true) (ne : k ≠ l) : k.rank ≠ l.rank := by
  cases k <;> cases l <;> simp_all [TargetKind.urgent, TargetKind.rank]

theorem rank_lt_of_ne_stow {k : TargetKind} (ne : k ≠ .stow) : k.rank < TargetKind.rank .stow := by
  cases k <;> simp_all [TargetKind.rank]

/-- Only STOW stands above an urgent kind. -/
theorem rank_le_of_ne_stow {k l : TargetKind} (u : k.urgent = true) (ne : l ≠ .stow) : l.rank ≤ k.rank :=
  (Nat.lt_succ_iff.mp (rank_lt_of_ne_stow ne)).trans ((urgent_iff_rank k).mp u)

/-! ## The deadband -/

theorem suppressed_none (d : Nat) (t : Target) : suppressed d none t = false := rfl

theorem suppressed_some (d : Nat) (c t : Target) :
    suppressed d (some c) t = true ↔ c.kind = t.kind ∧ |c.az - t.az| < d ∧ |c.el - t.el| < d := by
  simp [suppressed, and_assoc]

/-- No difference lies below a deadband of 0 (R34). -/
theorem suppressed_zero (commanded : Option Target) (t : Target) : suppressed 0 commanded t = false := by
  cases commanded with
  | none => rfl
  | some c => simp [suppressed, not_lt.mpr (abs_nonneg (c.az - t.az))]

/-! ## One offer -/

section OneOffer
variable {d : Nat} {t p : Target} {h : Helio}

/-- With no pending target an offer is posted, unless it is not urgent and the deadband suppresses it (R34). -/
theorem post_of_pending_none (e : h.pendingT = none) : h.post d t =
    if t.kind.urgent = false ∧ suppressed d h.commanded t = true then h else { h with pendingT := some t } := by
  simp [Helio.post, e]

/-- Against a pending target Table 2-5 alone decides (R35). -/
theorem post_of_pending_some (e : h.pendingT = some p) : h.post d t =
    if t.kind.replaces p.kind = true then { h with pendingT := some t } else h := by
  simp [Helio.post, e]

/-- An offer is posted or leaves the record as it was. -/
theorem post_eq_or (d : Nat) (t : Target) (h : Helio) : h.post d t = h ∨ h.post d t = { h with pendingT := some t } := by
  cases e : h.pendingT with
  | none => rw [post_of_pending_none e]; exact ite_eq_or_eq ..
  | some p => rw [post_of_pending_some e]; exact (ite_eq_or_eq ..).symm

/-- A pending target of higher rank refuses the offer. -/
theorem post_refused (e : h.pendingT = some p) (lower : t.kind.rank < p.kind.rank) : h.post d t = h := by
  rw [post_of_pending_some e, if_neg]
  rwa [replaces_iff_rank, not_le]

/-- An urgent offer is posted unless a target of higher rank is pending. -/
theorem post_prevails (u : t.kind.urgent = true) (le : ∀ p, h.pendingT = some p → p.kind.rank ≤ t.kind.rank) :
    h.post d t = { h with pendingT := some t } := by
  cases e : h.pendingT with
  | none => simp [post_of_pending_none e, u]
  | some p => rw [post_of_pending_some e, if_pos ((replaces_iff_rank ..).mpr (le p e))]

end OneOffer

/-! ## Two offers -/

section TwoOffers
variable {a b : Target} (d : Nat) (h : Helio)

/-- Of two offers of different rank the lower leaves no trace, in either order. -/
theorem post_absorbs_lower (lower : b.kind.rank < a.kind.rank) :
    (h.post d a).post d b = h.post d a ∧ (h.post d b).post d a = h.post d a := by
  have u : a.kind.urgent = true := (urgent_iff_rank _).mpr (Nat.zero_lt_of_lt lower)
  by_cases le : ∀ p, h.pendingT = some p → p.kind.rank ≤ a.kind.rank
  · have posted : h.post d a = { h with pendingT := some a } := post_prevails u le
    constructor
    · exact post_refused (by rw [posted]) lower
    · obtain unposted | replaced := post_eq_or d b h
      · rw [unposted]
      · rw [replaced, posted]
        exact post_prevails u fun p e => by cases e; exact lower.le
  · push Not at le
    obtain ⟨p, e, higher⟩ := le
    simp only [post_refused e higher, post_refused e (lower.trans higher), and_self]

/-- The order of two offers does not matter when one is urgent and their kinds differ (R35). -/
theorem post_comm (u : a.kind.urgent = true) (ne : a.kind ≠ b.kind) : (h.post d a).post d b = (h.post d b).post d a := by
  obtain higher | lower := lt_or_gt_of_ne (rank_ne_of_urgent u ne)
  · obtain ⟨after, before⟩ := post_absorbs_lower d h higher
    rw [before, after]
  · obtain ⟨after, before⟩ := post_absorbs_lower d h lower
    rw [after, before]

theorem post_post_stow (stow : a.kind = .stow) (ne : a.kind ≠ b.kind) : ((h.post d a).post d b).pendingT = some a := by
  have lower : b.kind.rank < a.kind.rank := stow ▸ rank_lt_of_ne_stow (stow ▸ ne).symm
  rw [(post_absorbs_lower d h lower).1, post_stow d a h stow]

theorem post_post_defocus (defocus : a.kind = .defocus) (ne : a.kind ≠ b.kind) (noStow : b.kind ≠ .stow)
    (free : ∀ p, h.pendingT = some p → p.kind ≠ .stow) : ((h.post d a).post d b).pendingT = some a := by
  have u : a.kind.urgent = true := by rw [defocus]; rfl
  have lower : b.kind.rank < a.kind.rank :=
    lt_of_le_of_ne (rank_le_of_ne_stow u noStow) (rank_ne_of_urgent u ne).symm
  rw [(post_absorbs_lower d h lower).1, post_prevails u fun p e => rank_le_of_ne_stow u (free p e)]

/-- Of two offers of one urgent kind the one served second stays (R35). -/
theorem post_post_same_kind (u : a.kind.urgent = true) (same : a.kind = b.kind)
    (free : ∀ p, h.pendingT = some p → p.kind ≠ .stow) : ((h.post d a).post d b).pendingT = some b := by
  have first : h.post d a = { h with pendingT := some a } := post_prevails u fun p e => rank_le_of_ne_stow u (free p e)
  rw [first, post_prevails (same ▸ u) fun p e => by cases e; rw [same]]

end TwoOffers

/-! ## The statement -/

/-- With a deadband of 0 no offer is suppressed (R34). -/
theorem post_zero_deadband (t : Target) (h : Helio) (e : h.pendingT = none) : (h.post 0 t).pendingT = some t := by
  rw [post_of_pending_none e, suppressed_zero]
  simp

theorem offer_occupied (s : State) (i : Nat) (t : Target) (o : (s.helio i).st ≠ .vacant) :
    offer i t s = s.setHelio i ((s.helio i).post (s.classOf i).deadband t) := by
  simp [offer, Helio.occupied, o]

/-- An offer to a VACANT record posts nothing (R33). -/
theorem offer_vacant (s : State) (i : Nat) (t : Target) (v : (s.helio i).st = .vacant) : offer i t s = s := by
  simp [offer, Helio.occupied, v]

/-- Settles O38: Table 2-5 as an order of urgency ranks, so that of two offers the higher absorbs the lower. -/
theorem postingRule : Obligations.PostingRule := by
  unfold Obligations.PostingRule
  refine ⟨?free, ?held, ?zero, ?different, ?same, fun s i t => ⟨offer_occupied s i t, offer_vacant s i t⟩⟩
  case free =>
    intro d t h e
    have keep : h = { h with pendingT := none } := by rw [← e]
    rw [post_of_pending_none e]
    simp only [← urgent_iff_defocus_or_stow]
    by_cases u : t.kind.urgent = true
    · simp [u]
    · cases commanded : h.commanded with
      | none => simp [u, suppressed_none]
      | some c =>
        simp only [u, suppressed_some, true_and, if_false, Bool.false_eq_true]
        split
        · rw [← commanded]; exact keep
        · rfl
  case held =>
    intro d t p h e
    have keep : h = { h with pendingT := some p } := by rw [← e]
    rw [post_of_pending_some e]
    simp only [replaces_iff_kind]
    split
    · rfl
    · exact keep
  case zero =>
    rintro _ t h rfl e
    exact post_zero_deadband t h e
  case different =>
    intro d a b h u ne
    exact ⟨post_comm d h u ne, fun stow => post_post_stow d h stow ne,
      fun defocus noStow free => post_post_defocus d h defocus ne noStow free⟩
  case same =>
    intro d a b h u same free
    exact post_post_same_kind d h u same free

end Sys2Proof.Machine
end

section
/-! DISABLE_AIM, WIDEN_AIM and READ_AIM on one entry (O23, R56, R57, R60). For each request one equation says what its row leaves and
answers when the port is about to carry it out. -/

namespace Sys2Proof.Machine

/-! ## Duty sets and the disabled entry -/

/-- A byte with no bit outside the three duties is a duty set (R189). -/
theorem dutySetOf_of_lt {d : Nat} (b : d < 8) : dutySetOf d = some (BitVec.ofNat 3 d) := if_pos b

theorem dutySetOf_of_ge {d : Nat} (b : 8 ≤ d) : dutySetOf d = none := if_neg (Nat.not_lt.mpr b)

/-- DISABLE_AIM changes the state of an entry alone (R60). -/
theorem AimEntry.disabled_eq (e : AimEntry) :
    e.disabled = { e with st := if e.st = .enabled then (if e.users = 0 then .free else .draining) else e.st } := by
  unfold AimEntry.disabled
  split
  · rfl
  · rfl

/-! ## What each row answers -/

section Rows
variable {s : State} {r : Req} {k d : Nat}

theorem exec_disableAim_of_asks (b : k < 256) (asked : s.asks r 0x0D#8 (byte1 k)) :
    exec .disableAim s = .next (
      if 63 < k then s.answered r [[0x03#8]]
      else (s.setEntry k (s.entry k).disabled).answered r
        [0x00#8 :: (byte1 (s.entry k).disabled.st.code ++ natBytes 2 (s.entry k).disabled.users)]) := by
  have served : exec .disableAim s =
      .next ((disableAimHandler (byte1 k) s).1.answered r (disableAimHandler (byte1 k) s).2) :=
    request_asks asked rfl rfl disableAimHandler
  rw [served, disableAimHandler, fieldNat_byte1_all b]
  split
  · rfl
  · rfl

theorem exec_readAim_of_asks (b : k < 256) (asked : s.asks r 0x24#8 (byte1 k)) :
    exec .readAim s = .next (s.answered r (if 63 < k then [[0x03#8]] else [0x00#8 :: aimBytes k (s.entry k)])) := by
  have served : exec .readAim s =
      .next ((readAimHandler (byte1 k) s).1.answered r (readAimHandler (byte1 k) s).2) :=
    request_asks asked rfl rfl readAimHandler
  rw [served, readAimHandler, fieldNat_byte1_all b]
  split
  · rfl
  · rfl

/-- WIDEN_AIM's refusals in R57's order, and the union. -/
theorem exec_widenAim_of_asks (b : k < 256) (bd : d < 256) (asked : s.asks r 0x0E#8 (byte1 k ++ byte1 d)) :
    exec .widenAim s = .next (
      if 63 < k ∨ 8 ≤ d then s.answered r [[0x03#8]]
      else if (s.entry k).st ≠ .enabled then s.answered r [[0x11#8]]
      else (s.setEntry k { s.entry k with duties := (s.entry k).duties ||| BitVec.ofNat 3 d }).answered r
        [[0x00#8, BitVec.ofNat 8 ((s.entry k).duties ||| BitVec.ofNat 3 d).toNat]]) := by
  have served : exec .widenAim s =
      .next ((widenAimHandler (byte1 k ++ byte1 d) s).1.answered r (widenAimHandler (byte1 k ++ byte1 d) s).2) :=
    request_asks asked rfl rfl widenAimHandler
  have slot : fieldNat (byte1 k ++ byte1 d) 0 1 = k := fieldNat_byte1 _ b
  have carried : fieldNat (byte1 k ++ byte1 d) 1 1 = d := (fieldNat_append _ _ _ _ le_rfl).trans (fieldNat_byte1_all bd)
  rw [served, widenAimHandler, slot, carried]
  obtain undefined | defined := le_or_gt 8 d
  · simp only [dutySetOf_of_ge undefined, undefined, or_true, if_true]
    rfl
  · simp only [dutySetOf_of_lt defined, Nat.not_le.mpr defined, or_false]
    by_cases past : 63 < k
    · simp only [if_pos past]
      rfl
    · by_cases enabled : (s.entry k).st ≠ .enabled
      · simp only [if_neg past, if_pos enabled]
        rfl
      · simp only [if_neg past, if_neg enabled]
        rfl

end Rows

/-! ## The statement -/

/-- Settles O23: each clause reads off one branch of its row's equation. -/
theorem disableWidenReadAim : Obligations.DisableWidenReadAim := by
  unfold Obligations.DisableWidenReadAim
  refine ⟨?disable, ?widen, fun s r k b asked => exec_readAim_of_asks b asked⟩
  case disable =>
    intro s r k b asked
    rw [exec_disableAim_of_asks b asked]
    exact ⟨fun past => by rw [if_pos past],
      fun inMap => ⟨(s.entry k).disabled, (s.entry k).disabled_eq, by rw [if_neg (Nat.not_lt.mpr inMap)]⟩⟩
  case widen =>
    intro s r k d b bd asked
    rw [exec_widenAim_of_asks b bd asked]
    have taken (inMap : k ≤ 63) (defined : d < 8) : ¬ (63 < k ∨ 8 ≤ d) := by omega
    exact ⟨fun refused => by rw [if_pos refused],
      fun inMap defined wrong => by rw [if_neg (taken inMap defined), if_pos wrong],
      fun inMap defined enabled => by rw [if_neg (taken inMap defined), if_neg (not_not.mpr enabled)]⟩

end Sys2Proof.Machine
end

section
/-! The reservation ledger (O52, O59; R25, R58, R66, R74), first part. What a step can do to the reservations is said once: a chain of
moves, each an operation of the model on the ledger or a change that leaves the ledger alone, and for a visit at most one admission. -/

namespace Sys2Proof.Machine

/-! ## What leaves the ledger alone -/

/-- The states of a record that call for the same reservations, by one of them (R25). -/
def HState.calls : HState → HState
  | .vacant | .idle | .clear => .clear
  | .approach | .onTarget => .onTarget
  | .retarget => .retarget
  | .leaving => .leaving

/-- Record g holds what record h holds, in a state that calls for it as h's does; its weight is in range if h's is. -/
structure Helio.KeepsClaims (h g : Helio) : Prop where
  primary  : g.primary = h.primary
  transfer : g.transfer = h.transfer
  calls    : g.st.calls = h.st.calls
  weight   : h.weight ≤ 65535 → g.weight ≤ 65535

/-- What bounds a contribution, weights apart: the irradiances and the fallback in their ranges. -/
def State.DniLaw (s : State) : Prop := s.weather.dni ≤ 1400 ∧ s.sweep.snapDni ≤ 1400 ∧ s.limits.fallback ≤ 1400

/-- Between s and t no reservation, user count, zone sum, entry state or entry zone changes. -/
structure State.KeepsLedger (s t : State) : Prop where
  records : ∀ i, (s.helio i).KeepsClaims (t.helio i)
  entries : ∀ k, (t.entry k).users = (s.entry k).users ∧ (t.entry k).st = (s.entry k).st ∧ (t.entry k).zone = (s.entry k).zone
  zones   : ∀ z, (t.zone z).committed = (s.zone z).committed ∧ (t.zone z).leaving = (s.zone z).leaving
  dni     : s.DniLaw → t.DniLaw

/-- The parts of the state that the ledger law reads. -/
def State.ledger (s : State) :
    Vector Helio Config.nHelio × Vector AimEntry Config.nSlot × Vector Zone Config.nZone × Nat × Nat × Nat :=
  (s.helios, s.entries, s.zones, s.weather.dni, s.sweep.snapDni, s.limits.fallback)

/-! ## The moves -/

/-- One move of the ledger. -/
inductive LedgerMove : State → State → Prop
  /-- Nothing of the ledger changes. -/
  | keep {s t : State} (same : s.KeepsLedger t) : LedgerMove s t
  /-- A record that holds nothing is replaced by one that calls for nothing (R38, R40, R41). -/
  | replace {s : State} (i : Nat) (h : Helio) (unreserved : (s.helio i).reserved = false) (primary : h.primary = none)
      (transfer : h.transfer = none) (calls : h.st.calls = .clear) (weight : h.weight ≤ 65535) : LedgerMove s (s.setHelio i h)
  /-- A FREE entry is loaded (R53, R55). -/
  | load {s : State} (k : Nat) (e : AimEntry) (free : (s.entry k).st = .free) (users : e.users = 0)
      (zone : e.zone < Config.nZone) : LedgerMove s (s.setEntry k e)
  /-- An entry is disabled (R60). -/
  | disable {s : State} (k : Nat) : LedgerMove s (s.setEntry k (s.entry k).disabled)
  /-- A holder goes LEAVING (R81). -/
  | leave {s : State} (i : Nat) : LedgerMove s (enterLeaving i s)
  /-- A LEAVING record is released (R84). -/
  | release {s : State} (i : Nat) (leaving : (s.helio i).st = .leaving) : LedgerMove s (releaseAll i s)
  /-- A RETARGET record arrives (R85). -/
  | promote {s : State} (i : Nat) (retarget : (s.helio i).st = .retarget) : LedgerMove s (promote i s)
  /-- A primary reservation is refreshed (R76). -/
  | refresh {s : State} (i cosq : Nat) (unit : cosq ≤ 4096) (calls : (s.helio i).st.calls = .onTarget) :
      LedgerMove s (refreshPrimary i (s.contributionOf i cosq) s)
  /-- A transfer reservation is refreshed (R78). -/
  | refreshMoving {s : State} (i cosq : Nat) (unit : cosq ≤ 4096) (retarget : (s.helio i).st = .retarget) :
      LedgerMove s (refreshTransfer i (s.contributionOf i cosq) s)
  /-- A primary reservation moves to another slot of its zone (R80). -/
  | moveSlot {s : State} (i k : Nat) (inMap : k < Config.nSlot) (enabled : (s.entry k).st = .enabled) :
      LedgerMove s (moveSlot i k s)
  /-- The warm reset (R186). -/
  | warm {s : State} : LedgerMove s (warmReset s)
  /-- The cold reset (R24, R187). -/
  | cold {s : State} : LedgerMove s (coldReset s)

/-- A chain of moves. -/
def State.Moves (s t : State) : Prop := Relation.ReflTransGen LedgerMove s t

/-- What R74 asks of state s before heliostat i gets reservation r. -/
def State.Allows (s : State) (i : Nat) (r : Reservation) : Prop :=
  s.sup.mode = .tracking ∧ s.permit = true
    ∧ (∃ sun, s.sweep.snapSun = some sun ∧ sun.flags.stale = false ∧ sun.flags.low = false)
    ∧ (s.helio i).latched = false ∧ (s.entry r.slot).st = .enabled
    ∧ (s.entry r.slot).permits (s.helio i).duty = true ∧ (s.entry r.slot).zone = r.zone

/-- From s to t heliostat i is admitted with reservation r: its first, or a transfer to another zone (R73, R75). -/
inductive Admission (i : Nat) (r : Reservation) : State → State → Prop
  | first {s : State} (clear : (s.helio i).st = .clear) : Admission i r s (admitPrimary i r s)
  | transfer {s : State} (held : Reservation) (holds : (s.helio i).primary = some held) (other : r.zone ≠ held.zone)
      (calls : (s.helio i).st.calls = .onTarget) : Admission i r s (admitTransfer i r s)

/-- A visit from s to t that admits heliostat i with reservation r: nothing else of the ledger changes, R74 allows it, its slot is one of
the map, and its amount is a contribution (R72). -/
structure State.Admits (s t : State) (i : Nat) (r : Reservation) : Prop where
  admission : ∃ u v, s.KeepsLedger u ∧ Admission i r u v ∧ v.KeepsLedger t
  allowed   : s.Allows i r
  inMap     : r.slot < Config.nSlot
  amount    : ∃ cosq ≤ 4096, r.amount = s.contributionOf i cosq

/-! ## Keeping, as a relation -/

theorem Helio.KeepsClaims.refl (h : Helio) : h.KeepsClaims h := ⟨rfl, rfl, rfl, id⟩

theorem Helio.KeepsClaims.trans {a b c : Helio} (ab : a.KeepsClaims b) (bc : b.KeepsClaims c) : a.KeepsClaims c :=
  ⟨bc.primary.trans ab.primary, bc.transfer.trans ab.transfer, bc.calls.trans ab.calls, bc.weight ∘ ab.weight⟩

theorem Helio.KeepsClaims.claims {h g : Helio} (k : h.KeepsClaims g) : g.claims = h.claims := by
  unfold Helio.claims
  rw [k.primary, k.transfer]

/-- The tables stay, and so do the ranges of the irradiances and the fallback. -/
theorem State.KeepsLedger.of_tables {s t : State} (helios : t.helios = s.helios) (entries : t.entries = s.entries)
    (zones : t.zones = s.zones) (dni : s.DniLaw → t.DniLaw) : s.KeepsLedger t where
  records i := by rw [State.helio, State.helio, helios]; exact .refl _
  entries k := by rw [State.entry, State.entry, entries]; exact ⟨rfl, rfl, rfl⟩
  zones z := by rw [State.zone, State.zone, zones]; exact ⟨rfl, rfl⟩
  dni := dni

theorem State.KeepsLedger.of_ledger {s t : State} (e : t.ledger = s.ledger) : s.KeepsLedger t := by
  simp only [State.ledger, Prod.mk.injEq] at e
  obtain ⟨helios, entries, zones, dni, snapDni, fallback⟩ := e
  refine .of_tables helios entries zones fun law => ?_
  rw [State.DniLaw, dni, snapDni, fallback]
  exact law

theorem State.KeepsLedger.refl (s : State) : s.KeepsLedger s := .of_ledger rfl

theorem State.KeepsLedger.trans {s t u : State} (st : s.KeepsLedger t) (tu : t.KeepsLedger u) : s.KeepsLedger u where
  records i := (st.records i).trans (tu.records i)
  entries k := by
    obtain ⟨users, state, zone⟩ := st.entries k
    obtain ⟨users', state', zone'⟩ := tu.entries k
    exact ⟨users'.trans users, state'.trans state, zone'.trans zone⟩
  zones z := ⟨(tu.zones z).1.trans (st.zones z).1, (tu.zones z).2.trans (st.zones z).2⟩
  dni := tu.dni ∘ st.dni

theorem State.KeepsLedger.after {s t u : State} (k : t.KeepsLedger u) (e : t.ledger = s.ledger) : s.KeepsLedger u :=
  .trans (.of_ledger e) k

/-- One record written, holding what it held. -/
theorem State.KeepsLedger.setHelio {s : State} {i : Nat} {h : Helio} (k : (s.helio i).KeepsClaims h) :
    s.KeepsLedger (s.setHelio i h) where
  records j := by
    rw [helio_setHelio]
    split
    · rename_i written
      obtain ⟨rfl, -⟩ := written
      exact k
    · exact .refl _
  entries _ := ⟨rfl, rfl, rfl⟩
  zones _ := ⟨rfl, rfl⟩
  dni := id

theorem State.Moves.refl (s : State) : s.Moves s := Relation.ReflTransGen.refl

theorem State.Moves.trans {s t u : State} (st : s.Moves t) (tu : t.Moves u) : s.Moves u := Relation.ReflTransGen.trans st tu

theorem State.Moves.single {s t : State} (m : LedgerMove s t) : s.Moves t := Relation.ReflTransGen.single m

theorem State.Moves.of_keeps {s t : State} (k : s.KeepsLedger t) : s.Moves t := .single (.keep k)

/-- A change outside the ledger. -/
theorem State.Moves.of_ledger {s t : State} (e : t.ledger = s.ledger) : s.Moves t := .of_keeps (.of_ledger e)

theorem State.Moves.setHelio {s : State} {i : Nat} {h : Helio} (k : (s.helio i).KeepsClaims h) : s.Moves (s.setHelio i h) :=
  .of_keeps (.setHelio k)

/-- A change outside the ledger at the beginning of a chain. -/
theorem State.Moves.after {s t u : State} (m : t.Moves u) (e : t.ledger = s.ledger) : s.Moves u := .trans (.of_ledger e) m

/-- A change outside the ledger at the end of a chain. -/
theorem State.Moves.outside {s t u : State} (e : u.ledger = t.ledger) (m : s.Moves t) : s.Moves u := m.trans (.of_ledger e)

end Sys2Proof.Machine
end

section
/-! The ledger, second part: the operations that the rows share, as moves. -/

namespace Sys2Proof.Machine

/-! ## Operations outside the ledger -/

section Outside
variable (s : State)

@[simp] theorem ledger_arbiter : (arbiter s).ledger = s.ledger := by simp [State.ledger]
@[simp] theorem ledger_setLine (n : Nat) (l : Line) : (s.setLine n l).ledger = s.ledger := rfl
@[simp] theorem ledger_raiseField (k : ExcKind) : (raiseField k s).ledger = s.ledger := rfl
@[simp] theorem ledger_restartSilence : (restartSilence s).ledger = s.ledger := rfl
@[simp] theorem ledger_stowTest : (stowTest s).ledger = s.ledger := by simp [State.ledger]
@[simp] theorem ledger_choosePoll (n : Nat) : (choosePoll n s).ledger = s.ledger := by simp [State.ledger]

@[simp] theorem ledger_quietPoll (n : Nat) : (quietPoll n s).ledger = s.ledger := by
  obtain same | ⟨_, _, _, polled⟩ := quietPoll_cases n s
  · rw [same]
  · rw [polled]; rfl

@[simp] theorem ledger_endPoll (n : Nat) : (endPoll n s).ledger = s.ledger := by simp [endPoll]

@[simp] theorem ledger_joinRing (b : Bool) (n : Nat) : (joinRing b n s).ledger = s.ledger := by
  unfold joinRing
  split <;> simp

@[simp] theorem ledger_chooseAll (ns : List Nat) : (chooseAll ns s).ledger = s.ledger := by
  induction ns generalizing s with
  | nil => rfl
  | cons n rest ih => simp [chooseAll, ih]

@[simp] theorem ledger_quietNotice (b : Bool) (i : Nat) : (quietNotice b i s).ledger = s.ledger := by
  obtain ⟨_, e⟩ := quietNotice_eq b i s
  rw [e]
  rfl

@[simp] theorem ledger_setMode (m : Mode) : (setMode m s).ledger = s.ledger := by
  by_cases same : s.sup.mode = m
  · simp [setMode, same]
  · rw [setMode_ne same]
    simp only [State.ledger]
    split <;> rfl

@[simp] theorem ledger_enterStowing : (enterStowing s).ledger = s.ledger := by
  unfold enterStowing
  split
  case h_1 | h_2 => exact ledger_setMode s .stowing
  case h_3 | h_4 | h_5 => rfl

@[simp] theorem ledger_composePermit (before excepted : Bool) : (composePermit before excepted s).ledger = s.ledger := by
  obtain ⟨_, _, e, -⟩ := composePermit_eq before excepted s
  rw [e]
  rfl

@[simp] theorem ledger_setFilter (pin : InputPin) (f : Filter) : (s.setFilter pin f).ledger = s.ledger := by
  cases pin <;> rfl

end Outside

/-! ## One record -/

namespace Helio.KeepsClaims
variable (h : Helio)

theorem post (d : Nat) (t : Target) : h.KeepsClaims (h.post d t) := by
  rw [post_eq]
  exact ⟨rfl, rfl, rfl, id⟩

theorem recordExc (k : ExcKind) (masked : Bool) : h.KeepsClaims (h.recordExc k masked) := ⟨rfl, rfl, rfl, id⟩

theorem refit (c : DriveClass) : h.KeepsClaims (h.refit c) := ⟨rfl, rfl, rfl, id⟩

theorem taken (c : DriveClass) (move : Option Target) (r : ReplyFields) : h.KeepsClaims (h.taken c move r) := by
  unfold Helio.taken
  split
  · split <;> exact ⟨rfl, rfl, rfl, id⟩
  · exact ⟨rfl, rfl, rfl, id⟩

theorem toState {st : HState} (calls : st.calls = h.st.calls) : h.KeepsClaims (h.toState st) :=
  ⟨by simp, by simp, by simp [calls], by simp⟩

theorem faultLocal (r : ReplyFields) (lag : Nat) : h.KeepsClaims ({ h with lag := lag }.faultLocal r) := ⟨rfl, rfl, rfl, id⟩

theorem halted : h.KeepsClaims h.halted := by
  unfold Helio.halted
  by_cases clear : h.st = .clear
  · simp only [clear, if_true]
    exact (toState h (st := .idle) (by rw [clear]; rfl)).trans ⟨rfl, rfl, rfl, id⟩
  · simp only [clear, if_false]
    exact ⟨rfl, rfl, rfl, id⟩

end Helio.KeepsClaims

/-- The state with record i CLEAR if it was IDLE, as a visit and the stow pass make it (R97, R155). -/
def State.clearIdle (s : State) (i : Nat) : State :=
  if (s.helio i).st = .idle then s.setHelio i ((s.helio i).toState .clear) else s

theorem State.KeepsLedger.clearIdle (s : State) (i : Nat) : s.KeepsLedger (s.clearIdle i) := by
  unfold State.clearIdle
  split
  · rename_i idle
    exact .setHelio (.toState _ (by rw [idle]; rfl))
  · exact .refl s

theorem State.KeepsLedger.offer (i : Nat) (t : Target) (s : State) : s.KeepsLedger (Machine.offer i t s) := by
  unfold Machine.offer
  split
  · exact .setHelio (.post _ _ _)
  · exact .refl s

theorem State.KeepsLedger.raiseHelio (k : ExcKind) (i : Nat) (z c : Option Nat) (s : State) :
    s.KeepsLedger (Machine.raiseHelio k i z c s) :=
  (State.KeepsLedger.setHelio (.recordExc _ k (s.exc.masked k))).trans (.of_ledger rfl)

theorem State.KeepsLedger.raiseWhen (b : Bool) (k : ExcKind) (i : Nat) (z c : Option Nat) (s : State) :
    s.KeepsLedger (Machine.raiseWhen b k i z c s) := by
  unfold Machine.raiseWhen
  split
  · exact .raiseHelio ..
  · exact .refl s

/-- A sweep start applies allowances, which are no sums, and takes the irradiance into the snapshot (R69, R93). -/
theorem State.KeepsLedger.sweepStart (s : State) : s.KeepsLedger (Machine.sweepStart s) := by
  obtain ⟨e, n, started, -⟩ := sweepStart_eq s
  rw [started]
  refine
    { records := fun i => .refl _
      entries := fun k => ⟨rfl, rfl, rfl⟩
      zones := fun z => ?zones
      dni := fun ⟨dni, _, fallback⟩ => ⟨dni, dni, fallback⟩ }
  have apply_sums (z : Zone) : z.apply.committed = z.committed ∧ z.apply.leaving = z.leaving := by
    unfold Zone.apply
    split <;> exact ⟨rfl, rfl⟩
  by_cases inTable : z < Config.nZone
  · simpa [State.zone, inTable] using apply_sums s.zones[z]
  · rw [zone_of_ge inTable, zone_of_ge inTable]
    exact ⟨rfl, rfl⟩

theorem State.KeepsLedger.passIndex (i : Nat) (s : State) : s.KeepsLedger (Machine.passIndex i s) := by
  obtain ⟨-, on⟩ | ⟨-, -, ends⟩ | ⟨-, -, -, starts⟩ := passIndex_cases i s
  · rw [on]
    exact .of_ledger rfl
  · rw [ends]
    exact .of_ledger rfl
  · rw [starts]
    exact (State.KeepsLedger.sweepStart _).after rfl

/-! ## Leaving and releases -/

namespace State.Moves

theorem offer (i : Nat) (t : Target) (s : State) : s.Moves (Machine.offer i t s) := .of_keeps (.offer i t s)

theorem raiseHelio (k : ExcKind) (i : Nat) (z c : Option Nat) (s : State) : s.Moves (Machine.raiseHelio k i z c s) :=
  .of_keeps (.raiseHelio k i z c s)

theorem leave (i : Nat) (s : State) : s.Moves (enterLeaving i s) := .single (.leave i)

theorem corrective (i : Nat) (c : Conditions) (s : State) : s.Moves (Machine.corrective i c s) := by
  unfold Machine.corrective
  split
  · exact .refl s
  · dsimp only
    generalize (s.helio i).primary.map (·.zone) = z
    generalize (s.helio i).primary.map (·.slot) = k
    have raised : s.Moves (enterLeaving i (raiseWhen c.fault .driveFault i z k
        (raiseWhen c.lag .lag i z k (raiseWhen c.lost .driveLost i z k s)))) :=
      .trans (.of_keeps (((State.KeepsLedger.raiseWhen ..).trans (.raiseWhen ..)).trans (.raiseWhen ..))) (.leave i _)
    split
    · exact raised.trans (.offer ..)
    · exact raised

theorem arrivalStep (i : Nat) (r : Reported) (s : State) : s.Moves (Machine.arrivalStep i r s) := by
  unfold Machine.arrivalStep
  dsimp only
  split
  · split
    · rename_i approach
      exact .setHelio (.toState _ (by rw [approach]; rfl))
    · rename_i retarget
      exact .single (.promote i retarget)
    all_goals exact .refl s
  · exact .refl s

theorem awayStep (i : Nat) (r : Reported) (s : State) : s.Moves (Machine.awayStep i r s) := by
  unfold Machine.awayStep
  dsimp only
  split
  · rename_i away
    exact .single (.release i away.1)
  · exact .refl s

theorem missAccess (i : Nat) (s : State) : s.Moves (Machine.missAccess i s) := by
  unfold Machine.missAccess
  dsimp only
  split
  · refine .outside (ledger_stowTest _) (.outside (ledger_quietNotice ..) (.trans ?missed (.corrective ..)))
    exact .setHelio ⟨rfl, rfl, rfl, id⟩
  · exact .setHelio ⟨rfl, rfl, rfl, id⟩

theorem replyAccess (i : Nat) (move : Option Target) (r : ReplyFields) (s : State) :
    s.Moves (Machine.replyAccess i move r s) := by
  unfold Machine.replyAccess
  dsimp only
  refine .outside (ledger_stowTest _) (.outside (ledger_quietNotice ..) (.trans (.trans ?decided (.setHelio ?lag)) (.corrective ..)))
  case lag => exact .faultLocal ..
  case decided => exact .trans (.trans (.setHelio (.taken ..)) (.arrivalStep ..)) (.awayStep ..)

theorem missPoll (n : Nat) (p : Poll) (s : State) : s.Moves (Machine.missPoll n p s) := by
  unfold Machine.missPoll
  split
  · exact .of_ledger (by simp)
  · exact .outside (ledger_endPoll ..) (.missAccess ..)

theorem completePoll (n : Nat) (p : Poll) (bs : List Byte) (s : State) : s.Moves (Machine.completePoll n p bs s) := by
  unfold Machine.completePoll
  dsimp only
  split
  · split
    · exact .of_ledger (by simp)
    · exact .outside (ledger_endPoll ..) (.replyAccess ..)
  · exact .missPoll ..

/-! ## Sweeps -/

theorem sweepStart (s : State) : s.Moves (Machine.sweepStart s) := .of_keeps (.sweepStart s)

theorem passIndex (i : Nat) (s : State) : s.Moves (Machine.passIndex i s) := .of_keeps (.passIndex i s)

theorem enterTracking (s : State) : s.Moves (Machine.enterTracking s) := by
  obtain ⟨-, starts⟩ | ⟨-, waits⟩ := enterTracking_cases s
  · rw [starts]
    exact .sweepStart s
  · rw [waits]
    exact .of_ledger rfl

/-! ## Passes -/

theorem stowReach (i : Nat) (s : State) : s.Moves (Machine.stowReach i s) := by
  unfold Machine.stowReach
  exact ((leave i s).trans (.of_keeps (.clearIdle ..))).trans (.offer ..)

theorem defocusReach (i : Nat) (s : State) : s.Moves (Machine.defocusReach i s) := by
  unfold Machine.defocusReach
  split
  · exact (leave i s).trans (.offer ..)
  · exact .refl s

theorem endStowPass (s : State) : s.Moves (Machine.endStowPass s) := .of_ledger (ledger_stowTest _)

theorem stowPassFrom (p : Nat) (s : State) : s.Moves (Machine.stowPassFrom p s) := by
  unfold Machine.stowPassFrom
  split
  · exact .endStowPass s
  · dsimp only
    split
    · exact (stowReach _ s).trans (.endStowPass _)
    · exact (stowReach _ s).trans (.of_ledger rfl)

theorem defocusPassFrom (p : Nat) (s : State) : s.Moves (Machine.defocusPassFrom p s) := by
  unfold Machine.defocusPassFrom
  split
  · exact .of_ledger rfl
  · exact (defocusReach _ s).trans (.of_ledger rfl)

/-! ## What a visit leaves -/

theorem offerStandby (i : Nat) (s : State) : s.Moves (Machine.offerStandby i s) := by
  unfold Machine.offerStandby
  split
  · exact .refl s
  · split
    · exact .offer ..
    · exact .raiseHelio ..

theorem offerOff (i : Nat) (s : State) : s.Moves (Machine.offerOff i s) := by
  unfold Machine.offerOff
  split
  · exact .offer ..
  · split
    · exact .offer ..
    · exact (raiseHelio ..).trans (.offer ..)

theorem sendOff (i : Nat) (s : State) : s.Moves (Machine.sendOff i s) := (leave i s).trans (.offerOff ..)

theorem raiseMiss (i : Nat) (s : State) : s.Moves (Machine.raiseMiss i s) := 
  (raiseHelio .aimMiss i none none s).trans (.of_ledger rfl)

theorem raiseAt (k : ExcKind) (i slot : Nat) (s : State) : s.Moves (Machine.raiseAt k i slot s) := .raiseHelio ..

theorem visitOutOfService (i : Nat) (s : State) : s.Moves (Machine.visitOutOfService i s) := by
  unfold Machine.visitOutOfService
  dsimp only
  split
  · exact .leave i s
  · exact (leave i s).trans (.offer ..)

theorem visitIneligible (i : Nat) (s : State) : s.Moves (Machine.visitIneligible i s) := by
  unfold Machine.visitIneligible
  split
  · exact .sendOff i s
  · exact .offerStandby i s

end State.Moves

end Sys2Proof.Machine
end

section
/-! The ledger, third part: every row but VISIT is a chain of moves, and so is an idle step. -/

namespace Sys2Proof.Machine

/-! ## Acting, requests and accesses -/

namespace State.Moves
variable {s t : State}

theorem act {due : Bool} {f : State → State} (answers : Machine.act due f s = .next t) (m : due = true → s.Moves (f s)) :
    s.Moves t := by
  unfold Machine.act at answers
  cases answers
  split
  · rename_i acts
    rw [Bool.and_eq_true] at acts
    exact .outside (ledger_arbiter _) (m acts.1)
  · exact .refl s

theorem request {kind : Byte} {lengthOk : Nat → Bool} {f : Handler} (answers : Machine.request kind lengthOk f s = .next t)
    (m : ∀ p, s.Moves (f p s).1) : s.Moves t := by
  refine act answers fun _ => ?_
  obtain same | ⟨r, -, -, refused⟩ | ⟨r, -, -, -, served⟩ := carryOut_cases kind lengthOk f s
  · rw [same]; exact .refl s
  · rw [refused]; exact .of_ledger rfl
  · rw [served]; exact (m r.payload).trans (.of_ledger rfl)

theorem serveAccess (r : Req) {p : State × Served} (m : s.Moves p.1) : s.Moves (Machine.serveAccess r p) := by
  unfold Machine.serveAccess
  split
  · exact m.trans (.of_ledger rfl)
  · exact m.trans (.of_ledger rfl)

theorem unlatch (i : Nat) (s : State) : s.Moves (Machine.unlatch i s) := .setHelio ⟨rfl, rfl, rfl, id⟩

theorem endRead (first : Nat) (entries : List (List Byte)) (s : State) : s.Moves (Machine.endRead first entries s).1 := .of_ledger rfl

theorem readRecord (first left : Nat) (entries : List (List Byte)) (s : State) :
    s.Moves (Machine.readRecord first left entries s).1 := by
  unfold Machine.readRecord
  dsimp only
  split
  · exact .endRead ..
  · exact .refl s

theorem serveWork (w : Work) (s : State) : s.Moves (Machine.serveWork w s).1 := by
  cases w with
  | read first left entries => exact .readRecord ..
  | release i => exact .unlatch i s
  | halt i =>
    unfold Machine.serveWork haltRecord
    dsimp only
    split
    · exact .refl s
    · exact .setHelio (.halted _)

theorem requestByAccess {kind : Byte} {lengthOk : Nat → Bool} {first : List Byte → State → State × Served}
    (answers : Machine.requestByAccess kind lengthOk first s = .next t) (m : ∀ p, s.Moves (first p s).1) : s.Moves t := by
  refine act answers fun _ => ?_
  obtain same | ⟨r, -, -, refused⟩ | ⟨r, -, -, -, -, served⟩ | ⟨r, w, -, -, -, -, served⟩ :=
    carryOutAccess_cases kind lengthOk first Machine.serveWork s
  · rw [same]; exact .refl s
  · rw [refused]; exact .of_ledger rfl
  · rw [served]; exact .serveAccess r (m r.payload)
  · rw [served]; exact .serveAccess r (.serveWork w s)

theorem continueRequest (s : State) : s.Moves (Machine.continueRequest s) := by
  unfold Machine.continueRequest
  split
  · exact .refl s
  · split
    · exact .refl s
    · exact .serveAccess _ (.serveWork ..)

/-! ## The port and the clock -/

theorem offerFrame (kind tag : Byte) (payload : List Byte) (s : State) : s.Moves (Machine.offerFrame kind tag payload s) := by
  refine .of_ledger ?_
  unfold Machine.offerFrame
  split
  · rfl
  · split
    · rfl
    · split <;> rfl

theorem takeFrame (frame : List Byte) (s : State) : s.Moves (Machine.takeFrame frame s) := by
  unfold Machine.takeFrame
  dsimp only
  split
  · exact (offerFrame ..).after rfl
  · exact .of_ledger rfl

theorem takeByte (b : Byte) (s : State) : s.Moves (Machine.takeByte b s) := by
  unfold Machine.takeByte
  split
  · split
    · exact .of_ledger rfl
    · exact .refl s
  · dsimp only
    split
    · exact .of_ledger rfl
    · split
      · exact .takeFrame ..
      · exact .of_ledger rfl

theorem frameEnd (s : State) : s.Moves (Machine.frameEnd s) := by
  unfold Machine.frameEnd
  split
  · exact .refl s
  · split
    · exact .of_ledger rfl
    · split
      · exact .single .warm
      · split <;> exact .of_ledger rfl
    · exact .of_ledger rfl

theorem tick (s : State) : s.Moves (Machine.tick s) := by
  unfold Machine.tick
  split
  · exact .refl s
  · refine .of_ledger ?_
    unfold State.ledger
    dsimp only
    split <;> rfl

end State.Moves

/-! ## Fields of a load -/

/-- Bytes hold a number below 256 to their count. -/
theorem beNat_lt (bs : List Byte) : beNat bs < 256 ^ bs.length := by
  induction bs using List.reverseRecOn with
  | nil => simp [beNat]
  | append_singleton bs b ih =>
    have lt := b.isLt
    rw [beNat_append_one, List.length_append, List.length_singleton, pow_succ]
    omega

theorem fieldNat_lt (p : List Byte) (off n : Nat) : fieldNat p off n < 256 ^ n :=
  (beNat_lt _).trans_le (Nat.pow_le_pow_right (by norm_num) (List.length_take_le _ _))

/-- The record that a load carries holds nothing and has a weight of two bytes. -/
theorem readHelioFields_some {p : List Byte} {f : Helio} (e : readHelioFields p = some f) :
    f.primary = none ∧ f.transfer = none ∧ f.st.calls = .clear ∧ f.weight ≤ 65535 := by
  obtain ⟨duty, -, rfl⟩ := Option.map_eq_some_iff.mp e
  exact ⟨rfl, rfl, rfl, Nat.le_of_lt_succ (fieldNat_lt p 24 2)⟩

/-- The entry that a load carries has no users. -/
theorem readAimFields_users {p : List Byte} {e : AimEntry} (read : readAimFields p = some e) : e.users = 0 := by
  unfold readAimFields at read
  split at read
  · cases read
    rfl
  · cases read

theorem AimEntry.zone_of_inRanges {e : AimEntry} (ok : e.inRanges = true) : e.zone < Config.nZone := by
  simp only [AimEntry.inRanges, Bool.and_eq_true, decide_eq_true_eq] at ok
  exact Nat.lt_succ_of_le ok.2

/-! ## Requests on classes, records, entries and zones -/

namespace State.Moves

theorem replaceClass (n : Nat) (c : DriveClass) (s : State) : s.Moves (Machine.replaceClass n c s) := by
  refine .of_keeps
    { records := fun i => ?records
      entries := fun _ => ⟨rfl, rfl, rfl⟩
      zones := fun _ => ⟨rfl, rfl⟩
      dni := id }
  change (s.helio i).KeepsClaims ((s.mapHelios _).helio i)
  by_cases inTable : i < Config.nHelio
  · rw [helio_mapHelios _ _ _ inTable]
    split
    · exact .refit ..
    · exact .refl _
  · rw [helio_of_ge _ _ inTable, helio_of_ge _ _ inTable]
    exact .refl _

theorem loadClassHandler (p : List Byte) (s : State) : s.Moves (Machine.loadClassHandler p s).1 := by
  unfold Machine.loadClassHandler
  dsimp only
  split
  · exact .refl s
  · split
    · exact .refl s
    · split
      · exact .refl s
      · exact .outside (ledger_stowTest _) (.replaceClass ..)

/-- A record that holds nothing made CLEAR, and offered STOW (R40). -/
theorem loadInStow (i : Nat) {s : State} (unreserved : (s.helio i).reserved = false) (weight : (s.helio i).weight ≤ 65535) :
    s.Moves (Machine.loadInStow i s) := by
  have claims : (s.helio i).primary = none ∧ (s.helio i).transfer = none := by
    simpa [Helio.reserved] using unreserved
  unfold Machine.loadInStow
  split
  case h_1 | h_2 | h_3 =>
    refine .trans (.single (.replace i _ unreserved ?_ ?_ ?_ ?_)) (.offer ..)
    all_goals simp [claims, weight, HState.calls]
  case h_4 | h_5 => exact .refl s

/-- A fresh load writes lines, and then its record. -/
theorem loadFresh_eq (i : Nat) (f : Helio) (s : State) : ∃ ls, loadFresh i f s = State.setHelio { s with lines := ls } i f := by
  unfold loadFresh
  dsimp only
  split <;> exact ⟨_, rfl⟩

/-- A load at the same line and address writes its record, which holds what it held. -/
theorem loadKept_eq (s : State) (i : Nat) {f : Helio} (weight : f.weight ≤ 65535) : ∃ h, loadKept i f s = s.setHelio i h
    ∧ (s.helio i).KeepsClaims h ∧ h.reserved = (s.helio i).reserved ∧ h.weight ≤ 65535 := by
  unfold loadKept
  dsimp only
  split <;> exact ⟨_, rfl, ⟨rfl, rfl, rfl, fun _ => weight⟩, rfl, weight⟩

theorem acceptLoad {i : Nat} {f : Helio} {s : State} (inTable : i < Config.nHelio) (unreserved : (s.helio i).reserved = false)
    (primary : f.primary = none) (transfer : f.transfer = none) (calls : f.st.calls = .clear) (weight : f.weight ≤ 65535) :
    s.Moves (Machine.acceptLoad i f s) := by
  unfold Machine.acceptLoad
  dsimp only
  refine .outside (ledger_stowTest _) (.outside (ledger_joinRing ..) ?_)
  split
  · obtain ⟨ls, e⟩ := loadFresh_eq i f s
    have loaded : State.Moves { s with lines := ls } (loadFresh i f s) :=
      e ▸ .single (.replace i f unreserved primary transfer calls weight)
    have reached : s.Moves (loadFresh i f s) := loaded.after rfl
    have record : (loadFresh i f s).helio i = f := by rw [e, helio_setHelio_self _ _ _ inTable]
    exact reached.trans (loadInStow i (by simp [record, Helio.reserved, primary, transfer]) (by rw [record]; exact weight))
  · obtain ⟨h, e, kept, claims, light⟩ := loadKept_eq s i weight
    have record : (loadKept i f s).helio i = h := by rw [e, helio_setHelio_self _ _ _ inTable]
    exact .trans (e ▸ .setHelio kept) (loadInStow i (by rw [record, claims, unreserved]) (by rw [record]; exact light))

theorem loadHeliostatHandler (p : List Byte) (s : State) : s.Moves (Machine.loadHeliostatHandler p s).1 := by
  unfold Machine.loadHeliostatHandler
  dsimp only
  split
  · exact .refl s
  · rename_i f read
    obtain ⟨primary, transfer, calls, weight⟩ := readHelioFields_some read
    split
    · exact .refl s
    · rename_i fields
      split
      · exact .refl s
      · split
        · exact .refl s
        · split
          · exact .refl s
          · rename_i unreserved
            have inTable : fieldNat p 0 2 < Config.nHelio := Nat.lt_succ_of_le (not_lt.mp (not_or.mp fields).1)
            exact .acceptLoad inTable (by simpa using unreserved) primary transfer calls weight

theorem removeRecord (i : Nat) {s : State} (unreserved : (s.helio i).reserved = false) : s.Moves (Machine.removeRecord i s) := by
  unfold Machine.removeRecord
  have left : s.Moves (forgetCarried (s.helio i).line (s.helio i).addr (voidPolls i s)) := .of_ledger rfl
  exact .outside (ledger_stowTest _) (left.trans (.single (.replace i {} unreserved rfl rfl rfl (by decide))))

theorem removeHeliostatHandler (p : List Byte) (s : State) : s.Moves (Machine.removeHeliostatHandler p s).1 := by
  unfold Machine.removeHeliostatHandler
  dsimp only
  split
  · exact .refl s
  · split
    · exact .refl s
    · rename_i unreserved
      split
      · exact .removeRecord _ (by simpa using unreserved)
      · exact .refl s

theorem setDutyHandler (p : List Byte) (s : State) : s.Moves (Machine.setDutyHandler p s).1 := by
  unfold Machine.setDutyHandler
  dsimp only
  split
  · exact .refl s
  · split
    · exact .refl s
    · split
      · exact .refl s
      · exact .setHelio ⟨rfl, rfl, rfl, id⟩

theorem releaseHeliostatFirst (p : List Byte) (s : State) : s.Moves (Machine.releaseHeliostatFirst p s).1 := by
  unfold Machine.releaseHeliostatFirst
  dsimp only
  split
  · exact .unlatch 0 s
  · split
    · exact .refl s
    · exact .unlatch _ s

theorem forgetHeliostatHandler (p : List Byte) (s : State) : s.Moves (Machine.forgetHeliostatHandler p s).1 := by
  unfold Machine.forgetHeliostatHandler
  dsimp only
  split
  · exact .refl s
  · split
    · rename_i leaving
      exact .single (.release _ leaving)
    · exact .refl s

theorem setStandbyHandler (p : List Byte) (s : State) : s.Moves (Machine.setStandbyHandler p s).1 := by
  unfold Machine.setStandbyHandler
  dsimp only
  split <;> exact .of_ledger rfl

theorem loadAimHandler (p : List Byte) (s : State) : s.Moves (Machine.loadAimHandler p s).1 := by
  unfold Machine.loadAimHandler
  dsimp only
  split
  · exact .refl s
  · rename_i e read
    split
    · exact .refl s
    · rename_i fields
      split
      · exact .refl s
      · split
        · exact .refl s
        · rename_i free
          split
          · exact .refl s
          · exact .single (.load _ e (not_not.mp free) (readAimFields_users read)
              (AimEntry.zone_of_inRanges (by simpa using (not_or.mp fields).2)))

theorem disableAimHandler (p : List Byte) (s : State) : s.Moves (Machine.disableAimHandler p s).1 := by
  unfold Machine.disableAimHandler
  dsimp only
  split
  · exact .refl s
  · exact .single (.disable _)

theorem widenAimHandler (p : List Byte) (s : State) : s.Moves (Machine.widenAimHandler p s).1 := by
  unfold Machine.widenAimHandler
  dsimp only
  split
  · exact .refl s
  · split
    · exact .refl s
    · split
      · exact .refl s
      · refine .of_keeps
          { records := fun _ => .refl _
            entries := fun k => ?entries
            zones := fun _ => ⟨rfl, rfl⟩
            dni := id }
        rw [entry_setEntry]
        split
        · rename_i written
          rw [← written.1]
          exact ⟨rfl, rfl, rfl⟩
        · exact ⟨rfl, rfl, rfl⟩

theorem setPending (vs : List Nat) (z : Nat) (s : State) : s.Moves (Machine.setPending z vs s) := by
  induction vs generalizing z s with
  | nil => exact .refl s
  | cons v rest ih =>
    have stored : s.KeepsLedger (s.setZone z { s.zone z with pending := some (min 16777215 v) }) :=
      { records := fun _ => .refl _
        entries := fun _ => ⟨rfl, rfl, rfl⟩
        zones := fun n => ?zones
        dni := id }
    · exact (of_keeps stored).trans (ih ..)
    rw [zone_setZone]
    split
    · rename_i written
      rw [← written.1]
      exact ⟨rfl, rfl⟩
    · exact ⟨rfl, rfl⟩

theorem setAllowanceHandler (p : List Byte) (s : State) : s.Moves (Machine.setAllowanceHandler p s).1 := by
  unfold Machine.setAllowanceHandler
  dsimp only
  split
  · exact .refl s
  · exact .setPending ..

/-! ## Requests on modes and the permit -/

theorem acceptMode {s t : State} (m : s.Moves t) : s.Moves (Machine.acceptMode t).1 := m

theorem startHandler (p : List Byte) (s : State) : s.Moves (Machine.startHandler p s).1 := by
  unfold Machine.startHandler
  split
  · exact .refl s
  · split
    · exact .refl s
    · exact .acceptMode (.trans (.of_ledger (ledger_setMode ..)) (.enterTracking _))

theorem haltFirst (p : List Byte) (s : State) : s.Moves (Machine.haltFirst p s).1 := by
  unfold Machine.haltFirst
  split
  case h_1 | h_2 | h_3 => exact .refl s
  case h_4 | h_5 =>
    split
    · exact .refl s
    · exact .of_ledger (ledger_setMode ..)

theorem setGrant (v excepted : Bool) (s : State) : s.Moves (Machine.setGrant v excepted s) :=
  (of_ledger (ledger_composePermit ..)).after rfl

theorem resumeField (s : State) : s.Moves (Machine.resumeField s) :=
  (enterTracking _).after (ledger_setMode s .tracking)

theorem resumeHandler (p : List Byte) (s : State) : s.Moves (Machine.resumeHandler p s).1 := by
  unfold Machine.resumeHandler
  split
  case h_1 | h_2 | h_3 => exact .refl s
  case h_4 | h_5 =>
    split
    · exact .refl s
    · split
      · exact .refl s
      · split
        · exact .refl s
        · exact .acceptMode (.resumeField s)

theorem quietHandler (p : List Byte) (s : State) : s.Moves (Machine.quietHandler p s).1 := by
  unfold Machine.quietHandler
  split
  case h_1 => exact .acceptMode (.of_ledger (ledger_setMode s .quiet))
  all_goals exact .refl s

theorem wakeField (s : State) : s.Moves (Machine.wakeField s) := by
  have woken : s.Moves (stowTest (setMode .stowed s)) := .of_ledger ((ledger_stowTest _).trans (ledger_setMode s .stowed))
  exact .outside (ledger_chooseAll ..) (woken.trans (.of_ledger rfl))

theorem wakeHandler (p : List Byte) (s : State) : s.Moves (Machine.wakeHandler p s).1 := by
  unfold Machine.wakeHandler
  split
  case h_1 => exact .acceptMode (.wakeField s)
  all_goals exact .refl s

/-! ## Limits and weather -/

end State.Moves

/-- The fallback stays in its range through a list of limits (R185). -/
theorem applyPairs_fallback {ps : List (Nat × Nat)} {l l' : Config.Limits} (applied : applyPairs l ps = some l')
    (inRange : l.fallback ≤ 1400) : l'.fallback ≤ 1400 := by
  induction ps generalizing l with
  | nil => cases applied; exact inRange
  | cons p rest ih =>
    unfold applyPairs at applied
    split at applied
    · rename_i l1 stored
      refine ih applied ?_
      unfold setLimit at stored
      split at stored <;> cases stored
      case h_17 => exact (clampNat_mem p.2 (Nat.zero_le 1400)).2
      all_goals exact inRange
    · cases applied

theorem takeEdge_dni (d : Nat) (w : Weather) : (takeEdge d w).dni = w.dni := by
  unfold takeEdge
  split
  · rfl
  · dsimp only
    split <;> rfl

theorem takeWrap_dni (w : Weather) : (takeWrap w).dni = w.dni := by
  unfold takeWrap
  split
  · rfl
  · split <;> rfl

theorem ledger_onWeather {f : Weather → Weather} {s : State} (same : (f s.weather).dni = s.weather.dni) :
    (onWeather f s).ledger = s.ledger := by
  simp [State.ledger, onWeather, same]

namespace State.Moves

theorem setLimitsHandler (p : List Byte) (s : State) : s.Moves (Machine.setLimitsHandler p s).1 := by
  unfold Machine.setLimitsHandler
  dsimp only
  split
  · exact .refl s
  · rename_i l applied
    have limited : s.Moves { s with limits := clampResume l } := by
      refine .of_keeps (.of_tables rfl rfl rfl fun ⟨dni, snap, fallback⟩ => ⟨dni, snap, ?_⟩)
      exact applyPairs_fallback (l' := l) applied fallback
    split
    · exact limited
    · exact .outside (ledger_restartSilence _) limited

theorem takeSample (s : State) : s.Moves (Machine.takeSample s) := by
  unfold Machine.takeSample
  dsimp only
  split
  · exact .of_ledger rfl
  · split
    · exact (of_ledger (ledger_enterStowing _)).after rfl
    · exact .of_ledger rfl

theorem sensorFaultCycle (s : State) : s.Moves (Machine.sensorFaultCycle s) := by
  unfold Machine.sensorFaultCycle
  dsimp only
  have faulted : s.Moves { s with weather := { s.weather with
      conv := .waiting, sensorFault := true, dni := max s.weather.dni s.limits.fallback } } :=
    .of_keeps (.of_tables rfl rfl rfl fun ⟨dni, snap, fallback⟩ => ⟨max_le dni fallback, snap, fallback⟩)
  split
  · exact faulted
  · exact .outside (ledger_raiseField ..) faulted

theorem takeReading (code : Nat) (s : State) : s.Moves (Machine.takeReading code s) := by
  refine .of_keeps (.of_tables rfl rfl rfl fun ⟨dni, snap, fallback⟩ => ⟨?_, snap, fallback⟩)
  have reading : readingOf s.limits.span code ≤ 1400 := min_le_left ..
  change dniAfter s.limits.decayStep s.weather.dni (readingOf s.limits.span code) ≤ 1400
  unfold dniAfter
  split
  · exact reading
  · exact max_le reading ((Nat.sub_le ..).trans dni)

theorem takeCode (code : BitVec 16) (s : State) : s.Moves (Machine.takeCode code s) := by
  unfold Machine.takeCode
  split
  · exact .sensorFaultCycle s
  · exact .takeReading ..

theorem filterChange (pin : InputPin) (s : State) : s.Moves (Machine.filterChange pin s) := by
  cases pin with
  | stow =>
    unfold Machine.filterChange stowLineChanged
    dsimp only
    split
    · exact (of_ledger (ledger_enterStowing _)).after rfl
    · exact .of_ledger rfl
  | permit => exact (of_ledger (ledger_composePermit ..)).after rfl

end State.Moves

end Sys2Proof.Machine
end

section
/-! The ledger, fourth part: what a step does to it. Every row but VISIT is a chain of moves; a visit is one, or one admission. -/

namespace Sys2Proof.Machine

/-! ## The rows -/

section Rows
variable {s t : State} {due : Bool} {f : State → State} {kind : Byte} {lengthOk : Nat → Bool}

/-- An event that lies outside the ledger. -/
theorem State.Moves.act_outside (answers : Machine.act due f s = .next t) (outside : (f s).ledger = s.ledger) : s.Moves t :=
  .act answers fun _ => .of_ledger outside

theorem State.Moves.withPoll {n : Nat} {f : Poll → State → State} {s : State} (m : ∀ p, s.Moves (f p s)) :
    s.Moves (Machine.withPoll n f s) := by
  unfold Machine.withPoll
  split
  · exact .refl s
  · exact m _

/-- A request whose block writes nothing of the ledger. -/
theorem State.Moves.request_outside {f : Handler} (answers : Machine.request kind lengthOk f s = .next t)
    (outside : ∀ p, (f p s).1.ledger = s.ledger) : s.Moves t :=
  .request answers fun p => .of_ledger (outside p)

end Rows

section Outside
variable (p : List Byte) (s : State)

theorem ledger_setTimeHandler : (setTimeHandler p s).1.ledger = s.ledger := by
  unfold setTimeHandler
  dsimp only
  split <;> rfl

theorem ledger_loadSunHandler : (loadSunHandler p s).1.ledger = s.ledger := by
  unfold loadSunHandler
  split
  · rfl
  · split <;> rfl

theorem ledger_selectStrategyHandler : (selectStrategyHandler p s).1.ledger = s.ledger := by
  unfold selectStrategyHandler
  dsimp only
  split <;> rfl

theorem ledger_setCursorHandler : (setCursorHandler p s).1.ledger = s.ledger := by
  unfold setCursorHandler
  dsimp only
  split <;> rfl

theorem ledger_readZonesHandler : (readZonesHandler p s).1.ledger = s.ledger := by
  unfold readZonesHandler
  dsimp only
  split <;> rfl

theorem ledger_readAimHandler : (readAimHandler p s).1.ledger = s.ledger := by
  unfold readAimHandler
  dsimp only
  split <;> rfl

theorem ledger_setNoticesHandler : (setNoticesHandler p s).1.ledger = s.ledger := by
  unfold setNoticesHandler
  split <;> rfl

theorem ledger_readClassHandler : (readClassHandler p s).1.ledger = s.ledger := by
  unfold readClassHandler
  dsimp only
  split <;> rfl

theorem ledger_answerUnknown : (answerUnknown s).ledger = s.ledger := by
  unfold answerUnknown
  split
  · rfl
  · split <;> rfl

theorem readHeliostatsFirst_moves : s.Moves (readHeliostatsFirst p s).1 := by
  unfold readHeliostatsFirst
  dsimp only
  split
  · exact .refl s
  · split
    · exact .readRecord ..
    · exact .endRead ..

theorem sweepTimerExpired_moves : s.Moves (sweepTimerExpired s) := by
  unfold sweepTimerExpired
  split
  · exact .sweepStart s
  · exact (State.Moves.of_ledger (ledger_raiseField ..)).after rfl

theorem passPosition_moves : s.Moves (passPosition s) := by
  unfold passPosition
  split
  · exact .refl s
  · exact .passIndex ..

end Outside

/-- Every row but VISIT is a chain of moves. -/
theorem exec_moves {c : Instr} {s t : State} (noVisit : c ≠ .visit) (answers : exec c s = .next t) : s.Moves t := by
  cases c with
  | visit => exact absurd rfl noVisit
  -- resets and the port
  | coldReset => cases answers; exact .single .cold
  | coldResetEnd =>
    cases answers
    split
    · exact .of_ledger rfl
    · exact .refl s
  | plantFrameReceived frame => exact .act answers fun _ => .takeFrame ..
  | plantByteReceived b => exact .act answers fun _ => .takeByte ..
  | plantFrameGapTimeout | plantFramingError => exact .act_outside answers rfl
  | frameSent => exact .act answers fun _ => .frameEnd s
  | unknownKindRequest => exact .act_outside answers (ledger_answerUnknown s)
  -- requests that set registers
  | setTime => exact .request_outside answers fun p => ledger_setTimeHandler p s
  | loadSun => exact .request_outside answers fun p => ledger_loadSunHandler p s
  | setLimits => exact .request answers fun p => .setLimitsHandler p s
  | setMasks | clearFlags | restart | readStatus | readFault | readMiss | readWeather =>
    exact .request_outside answers fun _ => rfl
  | setNotices => exact .request_outside answers fun p => ledger_setNoticesHandler p s
  | setCursor => exact .request_outside answers fun p => ledger_setCursorHandler p s
  | selectStrategy => exact .request_outside answers fun p => ledger_selectStrategyHandler p s
  -- requests on the tables
  | loadClass => exact .request answers fun p => .loadClassHandler p s
  | readClass => exact .request_outside answers fun p => ledger_readClassHandler p s
  | loadHeliostat => exact .request answers fun p => .loadHeliostatHandler p s
  | removeHeliostat => exact .request answers fun p => .removeHeliostatHandler p s
  | setDuty => exact .request answers fun p => .setDutyHandler p s
  | releaseHeliostat => exact .requestByAccess answers fun p => .releaseHeliostatFirst p s
  | forgetHeliostat => exact .request answers fun p => .forgetHeliostatHandler p s
  | setStandby => exact .request answers fun p => .setStandbyHandler p s
  | loadAim => exact .request answers fun p => .loadAimHandler p s
  | disableAim => exact .request answers fun p => .disableAimHandler p s
  | widenAim => exact .request answers fun p => .widenAimHandler p s
  | readAim => exact .request_outside answers fun p => ledger_readAimHandler p s
  | setAllowance => exact .request answers fun p => .setAllowanceHandler p s
  | readZones => exact .request_outside answers fun p => ledger_readZonesHandler p s
  | readHeliostats => exact .requestByAccess answers fun p => readHeliostatsFirst_moves p s
  -- mode and permit requests
  | start => exact .request answers fun p => .startHandler p s
  | halt => exact .requestByAccess answers fun p => .haltFirst p s
  | grantPermit => exact .request answers fun _ => .acceptMode (.setGrant true false s)
  | revokePermit => exact .request answers fun _ => .acceptMode (.setGrant false false s)
  | stow => exact .request answers fun _ => .acceptMode (.of_ledger (ledger_enterStowing s))
  | resume => exact .request answers fun p => .resumeHandler p s
  | quiet => exact .request answers fun p => .quietHandler p s
  | wake => exact .request answers fun p => .wakeHandler p s
  -- sweeps and passes
  | sweepTimerExpiry => exact .act answers fun _ => sweepTimerExpired_moves s
  | vacantIndexPassed => exact .act answers fun _ => passPosition_moves s
  | stowPassStep => exact .act answers fun _ => .stowPassFrom ..
  | defocusPassStep => exact .act answers fun _ => .defocusPassFrom ..
  -- field lines
  | lineSilenceExpiry line => exact .act_outside answers (ledger_choosePoll ..)
  | pollFrameSent line => exact .act answers fun _ => .withPoll fun _ => .of_ledger rfl
  | replySyncReceived line => exact .act_outside answers rfl
  | replyTimeout line | replyGapTimeout line | replyFramingError line =>
    exact .act answers fun _ => .withPoll fun p => .missPoll line p s
  | driveReply line bytes => exact .act answers fun _ => .withPoll fun p => .completePoll line p bytes s
  | quietTimerExpiry line => exact .act_outside answers (ledger_quietPoll ..)
  -- weather and the supervisor's timers
  | anemoEdge => exact .act_outside answers (ledger_onWeather (takeEdge_dni ..))
  | captureWrap => exact .act_outside answers (ledger_onWeather (takeWrap_dni _))
  | windSample => exact .act answers fun _ => .takeSample s
  | conversionStart | dniReady => exact .act_outside answers rfl
  | conversionComplete code => exact .act answers fun _ => .takeCode code s
  | dniReadyTimeout => exact .act answers fun _ => .sensorFaultCycle s
  | linePinChange pin level =>
    change execLinePinChange pin level s = .next t at answers
    unfold execLinePinChange at answers
    split at answers
    · cases answers
      exact .of_ledger (ledger_setFilter ..)
    · exact .act_outside answers (ledger_setFilter ..)
  | lineFilterExpiry pin => exact .act answers fun _ => .filterChange pin s
  | silenceExpiry => exact .act_outside answers (ledger_composePermit ..)
  | plantTimeWrap =>
    change execPlantTimeWrap s = .next t at answers
    unfold execPlantTimeWrap at answers
    exact .act_outside answers rfl

/-- An idle step is a chain of moves. -/
theorem idleStep_moves {s t : State} (answers : idleStep s = .next t) : s.Moves t := by
  unfold idleStep at answers
  split at answers
  · exact .act answers fun _ => .continueRequest s
  · cases answers
    exact .tick s

/-! ## A visit -/

/-- A cosine factor is at most 4096 (R12). -/
theorem reflect_cosq {az el : Int} {d : Point} {n : Normal} {cosq : Nat} (e : reflect az el d = some (n, cosq)) : cosq ≤ 4096 := by
  unfold reflect at e
  split at e
  · cases e
  · split at e
    · cases e
    · cases e
      exact min_le_left ..

theorem aimAt_cosq {standby : Bool} {sun : SnapSun} {c : DriveClass} {h : Helio} {a : Point} {t : Target} {cosq : Nat}
    (e : aimAt standby sun c h a = .ok (t, cosq)) : cosq ≤ 4096 := by
  unfold aimAt at e
  split at e
  · cases e
  · rename_i reflected
    split at e
    · cases e
    · cases e
      exact reflect_cosq reflected

theorem receiverFor_cosq {s : State} {sun : SnapSun} {i k : Nat} {t : Target} {cosq : Nat}
    (e : s.receiverFor sun i k = .ok (t, cosq)) : cosq ≤ 4096 := aimAt_cosq e

theorem lookup_inMap {s : State} {h strategy k : Nat} {d : Duty} (e : s.lookup h strategy d = .found k) : k < Config.nSlot :=
  (lookup_found e).1

theorem lookup_enabled {s : State} {h strategy k : Nat} {d : Duty} (e : s.lookup h strategy d = .found k) :
    (s.entry k).st = .enabled := matches_enabled (lookup_found e).2.1

theorem lookup_permits {s : State} {h strategy k : Nat} {d : Duty} (e : s.lookup h strategy d = .found k) :
    (s.entry k).permits d = true := (lookup_found e).2.2

/-- An eligible heliostat is visited in TRACKING, with the permit in force, under a sun neither stale nor low (R95). -/
theorem eligible_iff (s : State) : s.eligible = true ↔ s.sup.mode = .tracking ∧ s.permit = true
    ∧ ∃ sun, s.sweep.snapSun = some sun ∧ sun.flags.stale = false ∧ sun.flags.low = false := by
  unfold State.eligible
  cases s.sweep.snapSun <;> simp [and_assoc]

/-- A primary reservation moved to another slot, written out (R80). -/
theorem moveSlot_of_some {s : State} {i : Nat} {r : Reservation} (holds : (s.helio i).primary = some r) (k : Nat) :
    moveSlot i k s = incUser k (decUser r.slot (s.setHelio i { s.helio i with primary := some { r with slot := k } })) := by
  simp [moveSlot, holds]

theorem moveSlot_of_none {s : State} {i : Nat} (holds : (s.helio i).primary = none) (k : Nat) : moveSlot i k s = s := by
  simp [moveSlot, holds]

/-- A refresh of a primary reservation, written out (R76). -/
theorem refreshPrimary_of_some {s : State} {i : Nat} {r : Reservation} (holds : (s.helio i).primary = some r) (c : Nat) :
    refreshPrimary i c s = reprice r.zone r.amount c (s.setHelio i { s.helio i with primary := some { r with amount := c } }) := by
  simp [refreshPrimary, holds]

theorem refreshPrimary_of_none {s : State} {i : Nat} (holds : (s.helio i).primary = none) (c : Nat) : refreshPrimary i c s = s := by
  simp [refreshPrimary, holds]

/-- A refresh of a transfer reservation, written out (R78). -/
theorem refreshTransfer_of_some {s : State} {i : Nat} {r : Reservation} (holds : (s.helio i).transfer = some r) (c : Nat) :
    refreshTransfer i c s = reprice r.zone r.amount c (s.setHelio i { s.helio i with transfer := some { r with amount := c } }) := by
  simp [refreshTransfer, holds]

theorem refreshTransfer_of_none {s : State} {i : Nat} (holds : (s.helio i).transfer = none) (c : Nat) : refreshTransfer i c s = s := by
  simp [refreshTransfer, holds]

/-- A record that holds a reservation lies in the table. -/
theorem lt_of_primary {s : State} {i : Nat} {r : Reservation} (holds : (s.helio i).primary = some r) : i < Config.nHelio := by
  by_contra past
  rw [helio_of_ge _ _ past] at holds
  cases holds

theorem lt_of_transfer {s : State} {i : Nat} {r : Reservation} (holds : (s.helio i).transfer = some r) : i < Config.nHelio := by
  by_contra past
  rw [helio_of_ge _ _ past] at holds
  cases holds

theorem moveSlot_helio {s : State} {i : Nat} {r : Reservation} (holds : (s.helio i).primary = some r) (k : Nat) :
    (moveSlot i k s).helio i = { s.helio i with primary := some { r with slot := k } } := by
  rw [moveSlot_of_some holds, incUser_helio, decUser_helio, helio_setHelio_self _ _ _ (lt_of_primary holds)]

theorem refreshPrimary_helio {s : State} {i : Nat} {r : Reservation} (holds : (s.helio i).primary = some r) (c : Nat) :
    (refreshPrimary i c s).helio i = { s.helio i with primary := some { r with amount := c } } := by
  rw [refreshPrimary_of_some holds, reprice, setZone_helio, helio_setHelio_self _ _ _ (lt_of_primary holds)]

/-- A slot moved leaves the state of the record. -/
theorem moveSlot_st (s : State) (i k : Nat) : ((moveSlot i k s).helio i).st = (s.helio i).st := by
  cases holds : (s.helio i).primary with
  | none => rw [moveSlot_of_none holds]
  | some r => rw [moveSlot_helio holds]

theorem refreshPrimary_st (s : State) (i c : Nat) : ((refreshPrimary i c s).helio i).st = (s.helio i).st := by
  cases holds : (s.helio i).primary with
  | none => rw [refreshPrimary_of_none holds]
  | some r => rw [refreshPrimary_helio holds]

/-- A slot moved leaves what a contribution is computed from. -/
theorem contributionOf_moveSlot (s : State) (i k cosq : Nat) : (moveSlot i k s).contributionOf i cosq = s.contributionOf i cosq := by
  cases holds : (s.helio i).primary with
  | none => rw [moveSlot_of_none holds]
  | some r =>
    rw [State.contributionOf, moveSlot_helio holds, moveSlot_of_some holds]
    obtain ⟨_, _, _, e⟩ := decUser_eq (s.setHelio i { s.helio i with primary := some { r with slot := k } }) r.slot
    rw [e]
    rfl

namespace State.Moves

/-- A stay at an aim refreshes the reservation or sends the heliostat off (R103, R106). -/
theorem stayAt (sun : SnapSun) {i : Nat} (k : Nat) (held : Reservation) {s : State} (calls : (s.helio i).st.calls = .onTarget) :
    s.Moves (Machine.stayAt sun i k held s) := by
  unfold Machine.stayAt
  split
  · exact (raiseAt ..).trans (.sendOff ..)
  · rename_i aimed
    dsimp only
    split
    · exact .trans (.single (.refresh i _ (receiverFor_cosq aimed) calls)) (.offer ..)
    · exact (raiseHelio ..).trans (.sendOff ..)

/-- A same-zone transfer moves the slot of the reservation, then refreshes it or sends the heliostat off (R80, R104). -/
theorem transferTo (sun : SnapSun) {i k : Nat} (held : Reservation) {s : State} (inMap : k < Config.nSlot)
    (enabled : (s.entry k).st = .enabled) (calls : (s.helio i).st.calls = .onTarget) :
    s.Moves (Machine.transferTo sun i k held s) := by
  have moved : s.Moves (Machine.moveSlot i k s) := .single (.moveSlot i k inMap enabled)
  unfold Machine.transferTo
  split
  · exact (raiseAt ..).trans (.sendOff ..)
  · rename_i aimed
    dsimp only
    split
    · have calls' : ((Machine.moveSlot i k s).helio i).st.calls = .onTarget := by rw [moveSlot_st, calls]
      have refreshed := moved.trans (.single (.refresh i _ (receiverFor_cosq aimed) calls'))
      rw [contributionOf_moveSlot] at refreshed
      refine refreshed.trans (.trans (.setHelio (.toState _ ?_)) (.offer ..))
      rw [refreshPrimary_st, moveSlot_st, calls]
      rfl
    · exact (moved.trans (raiseHelio ..)).trans (.sendOff ..)

/-- The visit of a RETARGET record admits nothing (R107). -/
theorem visitRetarget (sun : SnapSun) {i : Nat} (held : Reservation) {s : State} (retarget : (s.helio i).st = .retarget) :
    s.Moves (Machine.visitRetarget sun i held s) := by
  unfold Machine.visitRetarget
  split
  · exact (raiseMiss ..).trans (.sendOff ..)
  · exact (raiseAt ..).trans (.sendOff ..)
  · split
    · split
      · exact (raiseAt ..).trans (.sendOff ..)
      · rename_i aimed
        dsimp only
        split
        · exact .trans (.single (.refreshMoving i _ (receiverFor_cosq aimed) retarget)) (.offer ..)
        · exact (raiseHelio ..).trans (.sendOff ..)
    · exact .sendOff i s

end State.Moves

/-! ## What a visit admits -/

section Visit
variable {s t : State} {i k : Nat}

/-- The admission of an eligible heliostat that is not LATCHED, through the entry that its lookup has found. -/
theorem State.Admits.of_found {strategy cosq : Nat} {v : State} (target : Target) (ok : s.eligible = true)
    (unlatched : (s.helio i).latched = false) (found : s.lookup i strategy (s.helio i).duty = .found k) (unit : cosq ≤ 4096)
    (admitted : Admission i ⟨(s.entry k).zone, k, s.contributionOf i cosq⟩ s v) :
    s.Admits (offer i target v) i ⟨(s.entry k).zone, k, s.contributionOf i cosq⟩ where
  admission := ⟨s, v, .refl s, admitted, .offer ..⟩
  allowed := by
    obtain ⟨tracking, permit, sun⟩ := (eligible_iff s).mp ok
    exact ⟨tracking, permit, sun, unlatched, lookup_enabled found, lookup_permits found, rfl⟩
  inMap := lookup_inMap found
  amount := ⟨cosq, unit, rfl⟩

theorem visitClear_cases (sun : SnapSun) (ok : s.eligible = true) (unlatched : (s.helio i).latched = false)
    (clear : (s.helio i).st = .clear) : s.Moves (visitClear sun i s) ∨ ∃ r, s.Admits (visitClear sun i s) i r := by
  unfold visitClear
  split
  · exact .inl ((State.Moves.raiseMiss ..).trans (.offerStandby ..))
  · exact .inl ((State.Moves.raiseAt ..).trans (.offerStandby ..))
  · rename_i found
    split
    · exact .inl ((State.Moves.raiseAt ..).trans (.offerStandby ..))
    · rename_i aimed
      dsimp only
      split
      · exact .inr ⟨_, .of_found _ ok unlatched found (receiverFor_cosq aimed) (.first clear)⟩
      · exact .inl ((State.Moves.raiseAt ..).trans (.offerStandby ..))

theorem crossTo_cases (sun : SnapSun) (ok : s.eligible = true) (unlatched : (s.helio i).latched = false) {held : Reservation}
    (holds : (s.helio i).primary = some held) (calls : (s.helio i).st.calls = .onTarget) {strategy : Nat}
    (found : s.lookup i strategy (s.helio i).duty = .found k) (other : (s.entry k).zone ≠ held.zone) :
    s.Moves (crossTo sun i k held s) ∨ ∃ r, s.Admits (crossTo sun i k held s) i r := by
  unfold crossTo
  split
  · exact .inl ((State.Moves.raiseAt ..).trans (.sendOff ..))
  · rename_i aimed
    dsimp only
    have calls' : ((raiseAt .flux i k s).helio i).st.calls = .onTarget :=
      ((State.KeepsLedger.raiseHelio ..).records i).calls.trans calls
    split
    · exact .inr ⟨_, .of_found _ ok unlatched found (receiverFor_cosq aimed) (.transfer held holds other calls)⟩
    · split
      · exact .inl ((State.Moves.raiseAt ..).trans (.stayAt _ _ _ calls'))
      · exact .inl ((State.Moves.raiseAt ..).trans (.sendOff ..))

theorem visitHolder_cases (sun : SnapSun) (ok : s.eligible = true) (unlatched : (s.helio i).latched = false) {held : Reservation}
    (holds : (s.helio i).primary = some held) (calls : (s.helio i).st.calls = .onTarget) :
    s.Moves (visitHolder sun i held s) ∨ ∃ r, s.Admits (visitHolder sun i held s) i r := by
  unfold visitHolder
  split
  · exact .inl ((State.Moves.raiseMiss ..).trans (.sendOff ..))
  · exact .inl ((State.Moves.raiseAt ..).trans (.sendOff ..))
  · rename_i found
    split
    · exact .inl (.stayAt _ _ _ calls)
    · split
      · exact .inl (.transferTo sun held (lookup_inMap found) (lookup_enabled found) calls)
      · rename_i other
        exact crossTo_cases sun ok unlatched holds calls found other

theorem visitEligible_cases (sun : SnapSun) (ok : s.eligible = true) (unlatched : (s.helio i).latched = false) :
    s.Moves (visitEligible sun i s) ∨ ∃ r, s.Admits (visitEligible sun i s) i r := by
  unfold visitEligible
  dsimp only
  split
  · rename_i clear
    exact visitClear_cases sun ok unlatched clear
  · rename_i approach holds
    exact visitHolder_cases sun ok unlatched holds (by rw [approach]; rfl)
  · rename_i onTarget holds
    exact visitHolder_cases sun ok unlatched holds (by rw [onTarget]; rfl)
  · rename_i retarget _
    exact .inl (.visitRetarget sun _ retarget)
  · exact .inl (.refl s)

theorem visitDecide_cases (i : Nat) (s : State) : s.Moves (visitDecide i s) ∨ ∃ r, s.Admits (visitDecide i s) i r := by
  unfold visitDecide
  dsimp only
  split
  · exact .inl (.visitOutOfService i s)
  · split
    · exact .inl (.offerStandby i s)
    · rename_i free
      split
      · exact .inl (.visitIneligible i s)
      · rename_i ok
        split
        · exact visitEligible_cases _ (by simpa using ok) (by simpa using (not_or.mp (not_or.mp free).2).1)
        · exact .inl (.refl s)

/-- A visit outside order 2 decides on the record that order 2 leaves (R97). -/
theorem visitRecord_eq (i : Nat) (s : State) : visitRecord i s =
    if s.sup.mode ≠ .tracking ∨ (s.helio i).lost ∨ (s.helio i).isLocal then s else visitDecide i (s.clearIdle i) := rfl

/-- What a visit admits after an IDLE record was made CLEAR, it admits from the state before. -/
theorem State.Admits.of_clearIdle {r : Reservation} (a : (s.clearIdle i).Admits t i r) : s.Admits t i r := by
  have kept := State.KeepsLedger.clearIdle s i
  unfold State.clearIdle at a kept
  by_cases idle : (s.helio i).st = .idle
  · simp only [idle, if_true] at a kept
    have record : (s.setHelio i ((s.helio i).toState .clear)).helio i = (s.helio i).toState .clear :=
      helio_setHelio_self _ _ _ (lt_of_not_vacant s i (by rw [idle]; decide))
    obtain ⟨⟨u, v, before, admitted, after⟩, allowed, inMap, cosq, unit, amount⟩ := a
    obtain ⟨tracking, permit, sun, unlatched, enabled, permits, zone⟩ := allowed
    rw [record] at unlatched permits
    rw [State.contributionOf, record] at amount
    simp only [toState_latched, toState_duty, toState_weight] at unlatched permits amount
    exact ⟨⟨u, v, kept.trans before, admitted, after⟩, ⟨tracking, permit, sun, unlatched, enabled, permits, zone⟩, inMap,
      cosq, unit, amount⟩
  · simpa only [idle, if_false] using a

theorem visitRecord_cases (i : Nat) (s : State) : s.Moves (visitRecord i s) ∨ ∃ r, s.Admits (visitRecord i s) i r := by
  rw [visitRecord_eq]
  split
  · exact .inl (.refl s)
  · obtain moves | ⟨r, admits⟩ := visitDecide_cases i (s.clearIdle i)
    · exact .inl (.trans (.of_keeps (.clearIdle s i)) moves)
    · exact .inr ⟨r, .of_clearIdle admits⟩

/-- What follows an admission and leaves the ledger alone belongs to it. -/
theorem State.Admits.then_keeps {u : State} {r : Reservation} (a : s.Admits t i r) (kept : t.KeepsLedger u) : s.Admits u i r :=
  let ⟨w, v, before, admitted, after⟩ := a.admission
  { a with admission := ⟨w, v, before, admitted, after.trans kept⟩ }

/-- The queue of waiting commands has no part in an admission. -/
theorem State.Admits.of_pending {rest : List Instr} {r : Reservation} (a : State.Admits { s with pending := rest } t i r) :
    s.Admits t i r :=
  let ⟨w, v, before, admitted, after⟩ := a.admission
  { a with admission := ⟨w, v, before.after rfl, admitted, after⟩ }

/-- VISIT is a chain of moves, or admits the heliostat it visits. -/
theorem execVisit_cases (answers : execVisit s = .next t) : s.Moves t ∨ ∃ i r, s.Admits t i r := by
  unfold execVisit act at answers
  cases answers
  split
  · unfold visitNext
    split
    · exact .inl (.of_ledger (ledger_arbiter _))
    · rename_i i _
      have ends : (visitRecord i s).KeepsLedger (arbiter (passIndex i (visitRecord i s))) :=
        (State.KeepsLedger.passIndex ..).trans (.of_ledger (ledger_arbiter _))
      obtain moves | ⟨r, admits⟩ := visitRecord_cases i s
      · exact .inl (moves.trans (.of_keeps ends))
      · exact .inr ⟨i, r, admits.then_keeps ends⟩
  · exact .inl (.refl s)

end Visit

end Sys2Proof.Machine
end

section
/-! The ledger, fifth part: each move and each admission keeps the ledger law (R25, R58, R66). One accounting lemma serves them all: where
one record changes, each sum follows by what the record held before and holds after. -/

namespace Sys2Proof.Machine

/-! ## Sums over the records -/

/-- A quantity summed over all records. -/
def State.total (s : State) (f : Helio → Nat) : Nat := (s.helios.toList.map f).sum

/-- What a record adds to the leaving sum of a zone (R66). -/
def Helio.leavingIn (z : Nat) (h : Helio) : Nat := if h.st = .leaving then amountIn z h.claims else 0

theorem committedOf_eq (s : State) (z : Nat) : s.committedOf z = s.total fun h => amountIn z h.claims := rfl

theorem leavingOf_eq (s : State) (z : Nat) : s.leavingOf z = s.total (Helio.leavingIn z) := rfl

theorem usersOf_eq (s : State) (k : Nat) : s.usersOf k = s.total fun h => namesOf k h.claims := rfl

theorem sum_map_toList {α : Type} {n : Nat} (xs : Vector α n) (d : α) (f : α → Nat) :
    (xs.toList.map f).sum = ∑ i ∈ Finset.range n, f (xs[i]?.getD d) := by
  have records : xs.toList.map f = List.ofFn fun i : Fin n => f (xs[i.val]?.getD d) := by
    apply List.ext_getElem
    · simp
    · intro i _ inTable
      have inTable : i < n := by simpa using inTable
      simp
  rw [records, List.sum_ofFn, Finset.sum_range]

theorem total_eq_sum (s : State) (f : Helio → Nat) : s.total f = ∑ i ∈ Finset.range Config.nHelio, f (s.helio i) :=
  sum_map_toList s.helios {} f

/-- One record changed: the total moves by what it gave before and gives after. -/
theorem total_of_change {s t : State} {i : Nat} (others : ∀ j, j ≠ i → t.helio j = s.helio j) (f : Helio → Nat) :
    t.total f + f (s.helio i) = s.total f + f (t.helio i) := by
  rw [total_eq_sum, total_eq_sum]
  by_cases inTable : i < Config.nHelio
  · have m := Finset.mem_range.mpr inTable
    rw [← Finset.add_sum_erase _ _ m, ← Finset.add_sum_erase _ _ m,
      Finset.sum_congr rfl fun j h => congrArg f (others j (Finset.ne_of_mem_erase h))]
    omega
  · have same : ∀ j, t.helio j = s.helio j := fun j => by
      by_cases e : j = i
      · rw [e, helio_of_ge _ _ inTable, helio_of_ge _ _ inTable]
      · exact others j e
    simp only [same]

/-- A record gives no more than the total. -/
theorem le_total (s : State) {i : Nat} (inTable : i < Config.nHelio) (f : Helio → Nat) : f (s.helio i) ≤ s.total f := by
  rw [total_eq_sum]
  exact Finset.single_le_sum (f := fun j => f (s.helio j)) (fun _ _ => Nat.zero_le _) (Finset.mem_range.mpr inTable)

theorem total_congr {s t : State} {f : Helio → Nat} (same : ∀ i, f (t.helio i) = f (s.helio i)) : t.total f = s.total f := by
  rw [total_eq_sum, total_eq_sum]
  exact Finset.sum_congr rfl fun i _ => same i

theorem total_le_total (s : State) {f g : Helio → Nat} (le : ∀ i, f (s.helio i) ≤ g (s.helio i)) : s.total f ≤ s.total g := by
  rw [total_eq_sum, total_eq_sum]
  exact Finset.sum_le_sum fun i _ => le i

theorem total_le_const (s : State) {f : Helio → Nat} {m : Nat} (le : ∀ i, f (s.helio i) ≤ m) : s.total f ≤ Config.nHelio * m := by
  rw [total_eq_sum]
  exact (Finset.sum_le_card_nsmul _ _ m fun i _ => le i).trans_eq (by simp)

theorem total_eq_zero {s : State} {f : Helio → Nat} (zero : ∀ i, f (s.helio i) = 0) : s.total f = 0 := by
  rw [total_eq_sum]
  exact Finset.sum_eq_zero fun i _ => zero i

/-! ## The reservations of one record -/

/-- Which reservations a state calls for (R25). -/
def HState.Fits (st : HState) (primary transfer : Option Reservation) : Prop :=
  match st with
  | .vacant | .idle | .clear => primary = none ∧ transfer = none
  | .approach | .onTarget => primary.isSome ∧ transfer = none
  | .retarget => ∃ p t, primary = some p ∧ transfer = some t ∧ p.zone ≠ t.zone
  | .leaving => ∃ p, primary = some p ∧ ∀ t, transfer = some t → p.zone ≠ t.zone

/-- A reservation names a zone and a slot, and is of an amount in 0..91,749 (R71, R72). -/
def Reservation.InBounds (r : Reservation) : Prop := r.zone < Config.nZone ∧ r.slot < Config.nSlot ∧ r.amount ≤ 91749

theorem reservationLaw_iff (h : Helio) :
    h.ReservationLaw ↔ h.st.Fits h.primary h.transfer ∧ ∀ r ∈ h.claims, r.InBounds := Iff.rfl

theorem fits_calls (st : HState) (p t : Option Reservation) : st.calls.Fits p t ↔ st.Fits p t := by
  cases st <;> rfl

theorem leaving_iff_calls (st : HState) : st = .leaving ↔ st.calls = .leaving := by
  cases st <;> simp [HState.calls]

theorem HState.Fits.zone_ne {st : HState} {p t : Reservation} (fits : st.Fits (some p) (some t)) : p.zone ≠ t.zone := by
  cases st <;> simp_all [HState.Fits]

theorem claims_none {h : Helio} (primary : h.primary = none) (transfer : h.transfer = none) : h.claims = [] := by
  simp [Helio.claims, primary, transfer]

theorem amountIn_claims (z : Nat) (h : Helio) :
    amountIn z h.claims = amountIn z h.primary.toList + amountIn z h.transfer.toList := amountIn_append ..

theorem namesOf_claims (k : Nat) (h : Helio) :
    namesOf k h.claims = namesOf k h.primary.toList + namesOf k h.transfer.toList := namesOf_append ..

theorem leavingIn_of_ne {z : Nat} {h : Helio} (ne : h.st ≠ .leaving) : h.leavingIn z = 0 := if_neg ne

theorem leavingIn_of_leaving {z : Nat} {h : Helio} (leaving : h.st = .leaving) : h.leavingIn z = amountIn z h.claims :=
  if_pos leaving

theorem leavingIn_le (z : Nat) (h : Helio) : h.leavingIn z ≤ amountIn z h.claims := by
  unfold Helio.leavingIn
  split
  · exact le_rfl
  · exact Nat.zero_le _

/-- A record holds at most one reservation's amount in a zone, as its two reservations name different zones (R25). -/
theorem amountIn_claims_le {h : Helio} (law : h.ReservationLaw) (z : Nat) : amountIn z h.claims ≤ 91749 := by
  obtain ⟨fits, bounds⟩ := (reservationLaw_iff h).mp law
  rw [amountIn_claims]
  cases primary : h.primary with
  | none =>
    cases transfer : h.transfer with
    | none => simp
    | some t =>
      obtain ⟨-, -, amount⟩ := bounds t (by simp [Helio.claims, transfer])
      simp only [Option.toList_none, Option.toList_some, amountIn_nil, amountIn_one]
      split <;> omega
  | some p =>
    obtain ⟨-, -, amount⟩ := bounds p (by simp [Helio.claims, primary])
    cases transfer : h.transfer with
    | none =>
      simp only [Option.toList_none, Option.toList_some, amountIn_nil, amountIn_one]
      split <;> omega
    | some t =>
      obtain ⟨-, -, amount'⟩ := bounds t (by simp [Helio.claims, transfer])
      have ne : p.zone ≠ t.zone := by
        rw [primary, transfer] at fits
        exact fits.zone_ne
      simp only [Option.toList_some, amountIn_one]
      split <;> split <;> omega

theorem Helio.KeepsClaims.reservationLaw {h g : Helio} (k : h.KeepsClaims g) (law : h.ReservationLaw) : g.ReservationLaw := by
  rw [reservationLaw_iff] at law ⊢
  rw [k.claims, k.primary, k.transfer, ← fits_calls, k.calls, fits_calls]
  exact law

theorem Helio.KeepsClaims.leavingIn {h g : Helio} (k : h.KeepsClaims g) (z : Nat) : g.leavingIn z = h.leavingIn z := by
  have leaving : g.st = .leaving ↔ h.st = .leaving := by rw [leaving_iff_calls, k.calls, ← leaving_iff_calls]
  simp only [Helio.leavingIn, k.claims, leaving]

/-- A contribution is at most 91,749 (R72). -/
theorem contribution_le {w cosq dni : Nat} (weight : w ≤ 65535) (unit : cosq ≤ 4096) (irradiance : dni ≤ 1400) :
    contribution w cosq dni ≤ 91749 := by
  have product : w * cosq * dni ≤ 65535 * 4096 * 1400 := Nat.mul_le_mul (Nat.mul_le_mul weight unit) irradiance
  unfold contribution
  omega

/-! ## What the law says -/

/-- A FREE entry has no users (R58). -/
def State.FreeUnused (s : State) : Prop := ∀ k < Config.nSlot, (s.entry k).st = .free → (s.entry k).users = 0

namespace State.LedgerLaw
variable {s t : State} (law : s.LedgerLaw)
include law

theorem record (i : Nat) : (s.helio i).ReservationLaw ∧ (s.helio i).weight ≤ 65535 := by
  by_cases inTable : i < Config.nHelio
  · exact law.records _ ((mem_helios s _).mpr ⟨i, inTable, rfl⟩)
  · rw [helio_of_ge _ _ inTable]
    exact ⟨⟨⟨rfl, rfl⟩, fun _ m => nomatch m⟩, by decide⟩

theorem fits (i : Nat) : (s.helio i).st.Fits (s.helio i).primary (s.helio i).transfer := (law.record i).1.1

theorem bounds {i : Nat} {r : Reservation} (m : r ∈ (s.helio i).claims) : r.InBounds := (law.record i).1.2 r m

theorem committed_eq {z : Nat} (inTable : z < Config.nZone) : (s.zone z).committed = s.total fun h => amountIn z h.claims :=
  (law.sums z inTable).1

theorem leaving_eq {z : Nat} (inTable : z < Config.nZone) : (s.zone z).leaving = s.total (Helio.leavingIn z) :=
  (law.sums z inTable).2

theorem users_eq {k : Nat} (inMap : k < Config.nSlot) : (s.entry k).users = s.total fun h => namesOf k h.claims :=
  law.users k inMap

/-- What a record holds is in the sums. -/
theorem amount_le {i z : Nat} (inTable : i < Config.nHelio) (zone : z < Config.nZone) :
    amountIn z (s.helio i).claims ≤ (s.zone z).committed := by
  rw [law.committed_eq zone]
  exact le_total s inTable fun h => amountIn z h.claims

theorem leavingIn_le {i z : Nat} (inTable : i < Config.nHelio) (zone : z < Config.nZone) :
    (s.helio i).leavingIn z ≤ (s.zone z).leaving := by
  rw [law.leaving_eq zone]
  exact le_total s inTable _

theorem names_le {i k : Nat} (inTable : i < Config.nHelio) (inMap : k < Config.nSlot) :
    namesOf k (s.helio i).claims ≤ (s.entry k).users := by
  rw [law.users_eq inMap]
  exact le_total s inTable fun h => namesOf k h.claims

theorem contribution_le (i : Nat) {cosq : Nat} (unit : cosq ≤ 4096) : s.contributionOf i cosq ≤ 91749 :=
  Machine.contribution_le (law.record i).2 unit law.dni.2.1

/-- The bounds of R66. -/
theorem bound {z : Nat} (inTable : z < Config.nZone) :
    (s.zone z).leaving ≤ (s.zone z).committed ∧ (s.zone z).committed ≤ 187901952 := by
  rw [law.committed_eq inTable, law.leaving_eq inTable]
  exact ⟨total_le_total s fun i => Machine.leavingIn_le z _, 
    (total_le_const s (m := 91749) fun i => amountIn_claims_le (law.record i).1 z).trans (by norm_num)⟩

/-- The accounting of a change of one record: each sum and each user count follows by what the record held and holds. -/
theorem of_change {i : Nat} (others : ∀ j, j ≠ i → t.helio j = s.helio j)
    (own : (t.helio i).ReservationLaw ∧ (t.helio i).weight ≤ 65535)
    (committed : ∀ z < Config.nZone,
      (t.zone z).committed + amountIn z (s.helio i).claims = (s.zone z).committed + amountIn z (t.helio i).claims)
    (leaving : ∀ z < Config.nZone,
      (t.zone z).leaving + (s.helio i).leavingIn z = (s.zone z).leaving + (t.helio i).leavingIn z)
    (users : ∀ k < Config.nSlot,
      (t.entry k).users + namesOf k (s.helio i).claims = (s.entry k).users + namesOf k (t.helio i).claims)
    (free : t.FreeUnused) (zoneOf : ∀ k < Config.nSlot, (t.entry k).zone < Config.nZone) (dni : t.DniLaw) : t.LedgerLaw where
  sums z inTable := by
    rw [committedOf_eq, leavingOf_eq]
    have ledger := committed z inTable
    have ledger' := leaving z inTable
    have held := total_of_change others fun h => amountIn z h.claims
    have held' := total_of_change others (Helio.leavingIn z)
    rw [law.committed_eq inTable] at ledger
    rw [law.leaving_eq inTable] at ledger'
    omega
  users k inMap := by
    rw [usersOf_eq]
    have ledger := users k inMap
    have held := total_of_change others fun h => namesOf k h.claims
    rw [law.users_eq inMap] at ledger
    omega
  records h m := by
    obtain ⟨j, -, rfl⟩ := (mem_helios t h).mp m
    by_cases e : j = i
    · rw [e]; exact own
    · rw [others j e]; exact law.record j
  free := free
  zoneOf := zoneOf
  dni := dni

/-- Where the ledger is kept, so is the law. -/
theorem of_keeps (kept : s.KeepsLedger t) : t.LedgerLaw where
  sums z inTable := by
    rw [(kept.zones z).1, (kept.zones z).2, law.committed_eq inTable, law.leaving_eq inTable]
    exact ⟨(total_congr fun i => by rw [(kept.records i).claims]).symm, (total_congr fun i => (kept.records i).leavingIn z).symm⟩
  users k inMap := by
    rw [(kept.entries k).1, law.users_eq inMap]
    exact (total_congr fun i => by rw [(kept.records i).claims]).symm
  records h m := by
    obtain ⟨i, -, rfl⟩ := (mem_helios t h).mp m
    exact ⟨(kept.records i).reservationLaw (law.record i).1, (kept.records i).weight (law.record i).2⟩
  free k inMap := by
    rw [(kept.entries k).1, (kept.entries k).2.1]
    exact law.free k inMap
  zoneOf k inMap := by
    rw [(kept.entries k).2.2]
    exact law.zoneOf k inMap
  dni := kept.dni law.dni

end State.LedgerLaw

/-- Where no record holds anything and every sum and count is 0, the law holds. -/
theorem ledgerLaw_of_unreserved {s : State} (records : ∀ i, (s.helio i).primary = none ∧ (s.helio i).transfer = none
      ∧ (s.helio i).st.calls = .clear ∧ (s.helio i).weight ≤ 65535)
    (zones : ∀ z, (s.zone z).committed = 0 ∧ (s.zone z).leaving = 0) (users : ∀ k, (s.entry k).users = 0)
    (zoneOf : ∀ k < Config.nSlot, (s.entry k).zone < Config.nZone) (dni : s.DniLaw) : s.LedgerLaw := by
  have claims (i : Nat) : (s.helio i).claims = [] := claims_none (records i).1 (records i).2.1
  refine
    { sums := fun z _ => ?sums
      users := fun k _ => ?users
      records := fun h m => ?records
      free := fun k _ _ => users k
      zoneOf := zoneOf
      dni := dni }
  case sums =>
    rw [(zones z).1, (zones z).2, committedOf_eq, leavingOf_eq]
    exact ⟨(total_eq_zero fun i => by rw [claims]; rfl).symm, (total_eq_zero fun i => by simp [Helio.leavingIn, claims]).symm⟩
  case users =>
    rw [users, usersOf_eq]
    exact (total_eq_zero fun i => by rw [claims]; rfl).symm
  case records =>
    obtain ⟨i, -, rfl⟩ := (mem_helios s h).mp m
    obtain ⟨primary, transfer, calls, weight⟩ := records i
    refine ⟨(reservationLaw_iff _).mpr ⟨?_, by simp [claims]⟩, weight⟩
    rw [← fits_calls, calls]
    exact ⟨primary, transfer⟩

end Sys2Proof.Machine
end

section
/-! The ledger, sixth part: the law through each move and each admission. -/

namespace Sys2Proof.Machine

/-! ## Zones and slots after each operation -/

section Writes
variable (s : State) (r : Reservation) (fl : Bool) (i k m z a c : Nat)

theorem decUser_entry_zone : ((decUser k s).entry m).zone = (s.entry m).zone := by
  rw [decUser_entry]
  split
  · rename_i written
    rw [← written.1]
  · rfl

theorem decUser_entry_users (inMap : m < Config.nSlot) :
    ((decUser k s).entry m).users = (s.entry m).users - if k = m then 1 else 0 := by
  rw [decUser_entry]
  by_cases e : k = m
  · subst e; simp [inMap]
  · simp [e]

/-- An ENABLED entry stays so when a reservation ceases to name a slot (R61). -/
theorem decUser_enabled (enabled : (s.entry m).st = .enabled) : ((decUser k s).entry m).st = .enabled := by
  rw [decUser_entry]
  split
  · rename_i written
    obtain ⟨rfl, -⟩ := written
    simp [enabled]
  · exact enabled

theorem decUser_freeUnused (free : s.FreeUnused) : (decUser k s).FreeUnused := by
  intro m inMap isFree
  rw [decUser_entry] at isFree ⊢
  split at isFree
  · rename_i written
    obtain ⟨rfl, -⟩ := written
    simp only [inMap, and_self, if_true]
    split at isFree
    · rename_i last
      exact last.2
    · rw [free k inMap isFree]
  · rename_i other
    rw [if_neg other]
    exact free m inMap isFree

theorem decUser_dniLaw : (decUser k s).DniLaw ↔ s.DniLaw := by
  obtain ⟨_, _, _, e⟩ := decUser_eq s k
  rw [e]
  rfl

theorem incUser_entry_zone : ((incUser k s).entry m).zone = (s.entry m).zone := by
  rw [incUser_entry]
  split
  · rename_i written
    rw [← written.1]
  · rfl

theorem incUser_entry_users (inMap : m < Config.nSlot) :
    ((incUser k s).entry m).users = (s.entry m).users + if k = m then 1 else 0 := by
  rw [incUser_entry]
  by_cases e : k = m
  · subst e; simp [inMap]
  · simp [e]

theorem incUser_freeUnused (free : s.FreeUnused) (enabled : (s.entry k).st = .enabled) : (incUser k s).FreeUnused := by
  intro m inMap isFree
  rw [incUser_entry] at isFree ⊢
  split at isFree
  · rw [enabled] at isFree
    cases isFree
  · rename_i other
    rw [if_neg other]
    exact free m inMap isFree

theorem incUser_dniLaw : (incUser k s).DniLaw ↔ s.DniLaw := Iff.rfl

/-- A reservation's amount enters the committed sum of its zone (R73, R75). -/
def State.charge (s : State) (r : Reservation) : State :=
  s.setZone r.zone { s.zone r.zone with committed := (s.zone r.zone).committed + r.amount }

theorem admitPrimary_eq : admitPrimary i r s =
    incUser r.slot ((s.setHelio i ({ s.helio i with primary := some r }.toState .approach)).charge r) := rfl

theorem admitTransfer_eq : admitTransfer i r s =
    incUser r.slot ((s.setHelio i ({ s.helio i with transfer := some r }.toState .retarget)).charge r) := rfl

theorem charge_zone (inTable : z < Config.nZone) : (s.charge r).zone z =
    { s.zone z with committed := (s.zone z).committed + amountIn z [r] } := by
  rw [State.charge, zone_setZone, amountIn_one]
  by_cases e : r.zone = z
  · subst e; simp [inTable]
  · simp [e]

theorem reprice_zone (inTable : m < Config.nZone) : (reprice z a c s).zone m =
    { s.zone m with committed := if z = m then (s.zone m).committed + c - a else (s.zone m).committed } := by
  rw [reprice, zone_setZone]
  by_cases e : z = m
  · subst e; simp [inTable]
  · simp [e]

theorem releaseSums_freeUnused (o : Option Reservation) (free : s.FreeUnused) : (releaseSums fl o s).FreeUnused := by
  cases o with
  | none => exact free
  | some r => exact decUser_freeUnused _ _ free

theorem releaseSums_entry_zone (o : Option Reservation) : ((releaseSums fl o s).entry m).zone = (s.entry m).zone := by
  cases o with
  | none => rfl
  | some r => exact decUser_entry_zone ..

theorem releaseSums_dniLaw (o : Option Reservation) : (releaseSums fl o s).DniLaw ↔ s.DniLaw := by
  cases o with
  | none => rfl
  | some r => exact decUser_dniLaw ..

/-- The record that a release of every reservation leaves (R84). -/
def Helio.released (h : Helio) : Helio := { h with primary := none, transfer := none }.toState .clear

theorem releaseAll_sums : releaseAll i s =
    releaseSums true (s.helio i).transfer (releaseSums true (s.helio i).primary (s.setHelio i (s.helio i).released)) := rfl

/-- The record that an arrival in RETARGET leaves (R85). -/
def Helio.promoted (h : Helio) : Helio := { h with primary := h.transfer, transfer := none }.toState .onTarget

theorem promote_sums : promote i s = releaseSums false (s.helio i).primary (s.setHelio i (s.helio i).promoted) := rfl

end Writes

/-! ## Records that fit -/

theorem fits_leaving {h : Helio} {p t : Option Reservation} (fits : h.st.Fits p t) (holder : h.holder = true) :
    HState.leaving.Fits p t := by
  unfold Helio.holder at holder
  cases st : h.st <;> simp only [st, HState.Fits, reduceCtorEq] at fits holder ⊢
  case approach | onTarget =>
    obtain ⟨some, rfl⟩ := fits
    obtain ⟨p, rfl⟩ := Option.isSome_iff_exists.mp some
    exact ⟨p, rfl, fun _ e => nomatch e⟩
  case retarget =>
    obtain ⟨p, t, rfl, rfl, ne⟩ := fits
    exact ⟨p, rfl, fun _ e => by cases e; exact ne⟩

theorem fits_onTarget {st : HState} {p t : Option Reservation} (calls : st.calls = .onTarget) :
    st.Fits p t ↔ p.isSome ∧ t = none := by
  rw [← fits_calls, calls]
  rfl

/-- Only the states that call for nothing fit a record that holds nothing (R25). -/
theorem calls_of_fits_none {st : HState} (fits : st.Fits none none) : st.calls = .clear := by
  cases st <;> simp_all [HState.Fits, HState.calls]

/-- A primary reservation changed within its zone fits as before. -/
theorem fits_primary {st : HState} {r r' : Reservation} {t : Option Reservation} (fits : st.Fits (some r) t) (zone : r'.zone = r.zone) :
    st.Fits (some r') t := by
  cases st <;> simp_all [HState.Fits]

theorem fits_transfer {st : HState} {r r' : Reservation} {p : Option Reservation} (fits : st.Fits p (some r)) (zone : r'.zone = r.zone) :
    st.Fits p (some r') := by
  cases st <;> simp_all [HState.Fits]

/-! ## The resets -/

theorem warmReset_helio (s : State) (i : Nat) : (warmReset s).helio i = (s.helio i).warm := by
  by_cases inTable : i < Config.nHelio
  · exact helio_mapHelios s i Helio.warm inTable
  · rw [helio_of_ge _ _ inTable, helio_of_ge _ _ inTable]
    rfl

theorem coldReset_helio (s : State) (i : Nat) : (coldReset s).helio i = {} := by
  change (Vector.replicate Config.nHelio ({} : Helio))[i]?.getD {} = {}
  rw [Vector.getElem?_replicate]
  split <;> rfl

/-- The cold reset leaves no reservation, and every sum and count 0 (R24, R47, R65). -/
theorem coldReset_ledgerLaw (s : State) : (coldReset s).LedgerLaw := by
  have zone (z : Nat) : (coldReset s).zone z = {} := by
    change (Vector.replicate Config.nZone ({} : Zone))[z]?.getD {} = {}
    rw [Vector.getElem?_replicate]
    split <;> rfl
  have entry (k : Nat) : (coldReset s).entry k = {} := by
    change (Vector.replicate Config.nSlot ({} : AimEntry))[k]?.getD {} = {}
    rw [Vector.getElem?_replicate]
    split <;> rfl
  refine ledgerLaw_of_unreserved (fun i => ?_) (fun z => ?_) (fun k => ?_) (fun k _ => ?_)
    ⟨(by decide : 1000 ≤ 1400), Nat.zero_le _, (by decide : 1000 ≤ 1400)⟩
  · rw [coldReset_helio]; exact ⟨rfl, rfl, rfl, by decide⟩
  · rw [zone]; exact ⟨rfl, rfl⟩
  · rw [entry]
  · rw [entry]; decide

/-! ## The law through each move -/

namespace State.LedgerLaw
variable {s : State} (law : s.LedgerLaw)
include law

theorem replace {i : Nat} {h : Helio} (unreserved : (s.helio i).reserved = false) (primary : h.primary = none)
    (transfer : h.transfer = none) (calls : h.st.calls = .clear) (weight : h.weight ≤ 65535) : (s.setHelio i h).LedgerLaw := by
  obtain ⟨primary', transfer'⟩ : (s.helio i).primary = none ∧ (s.helio i).transfer = none := by
    simpa [Helio.reserved] using unreserved
  have calls' : (s.helio i).st.calls = .clear := by
    have fits := law.fits i
    rw [primary', transfer'] at fits
    exact calls_of_fits_none fits
  exact law.of_keeps (.setHelio ⟨primary.trans primary'.symm, transfer.trans transfer'.symm, calls.trans calls'.symm, fun _ => weight⟩)

theorem load {k : Nat} {e : AimEntry} (free : (s.entry k).st = .free) (users : e.users = 0) (zone : e.zone < Config.nZone) :
    (s.setEntry k e).LedgerLaw where
  sums := law.sums
  users m inMap := by
    rw [entry_setEntry]
    split
    · rename_i written
      obtain ⟨rfl, -⟩ := written
      rw [users, ← law.free k inMap free]
      exact law.users k inMap
    · exact law.users m inMap
  records := law.records
  free m inMap isFree := by
    rw [entry_setEntry] at isFree ⊢
    split at isFree
    · rename_i written
      rw [if_pos written, users]
    · rename_i other
      rw [if_neg other]
      exact law.free m inMap isFree
  zoneOf m inMap := by
    rw [entry_setEntry]
    split
    · exact zone
    · exact law.zoneOf m inMap
  dni := law.dni

theorem disable (k : Nat) : (s.setEntry k (s.entry k).disabled).LedgerLaw := by
  have same (m : Nat) : ((s.setEntry k (s.entry k).disabled).entry m).users = (s.entry m).users
      ∧ ((s.setEntry k (s.entry k).disabled).entry m).zone = (s.entry m).zone := by
    rw [entry_setEntry, AimEntry.disabled_eq]
    split
    · rename_i written
      rw [← written.1]
      exact ⟨rfl, rfl⟩
    · exact ⟨rfl, rfl⟩
  refine
    { sums := law.sums
      users := fun m inMap => (same m).1.trans (law.users m inMap)
      records := law.records
      free := fun m inMap isFree => ?free
      zoneOf := fun m inMap => (same m).2 ▸ law.zoneOf m inMap
      dni := law.dni }
  rw [(same m).1]
  rw [entry_setEntry, AimEntry.disabled_eq] at isFree
  split at isFree
  · rename_i written
    obtain ⟨rfl, -⟩ := written
    dsimp only at isFree
    split at isFree
    · split at isFree
      · assumption
      · cases isFree
    · exact law.free k inMap isFree
  · exact law.free m inMap isFree

theorem leave (i : Nat) : (enterLeaving i s).LedgerLaw := by
  cases holder : (s.helio i).holder with
  | false => rwa [enterLeaving_of_not s i holder]
  | true =>
    have record : (enterLeaving i s).helio i = { s.helio i with st := .leaving, lag := 0 } := by
      rw [enterLeaving_helio, if_pos ⟨rfl, holder⟩]
    have claims : ((enterLeaving i s).helio i).claims = (s.helio i).claims := by rw [record]; rfl
    have entries (k : Nat) : (enterLeaving i s).entry k = s.entry k := by simp [State.entry]
    have staying : (s.helio i).st ≠ .leaving := by intro leaving; simp [Helio.holder, leaving] at holder
    refine law.of_change (i := i) ?others ⟨?own, ?weight⟩ ?committed ?leaving ?users ?free ?zoneOf ?dni
    case others =>
      intro j ne
      rw [enterLeaving_helio, if_neg fun own => ne own.1.symm]
    case own =>
      rw [reservationLaw_iff, claims, record]
      exact ⟨fits_leaving (law.fits i) holder, (law.record i).1.2⟩
    case weight => rw [record]; exact (law.record i).2
    case committed =>
      intro z inTable
      rw [claims, enterLeaving_zone _ _ _ inTable]
    case leaving =>
      intro z inTable
      rw [leavingIn_of_ne staying, leavingIn_of_leaving (by rw [record]), claims, enterLeaving_zone _ _ _ inTable, holder]
      rfl
    case users => intro k _; rw [claims, entries]
    case free => intro k inMap; rw [entries]; exact law.free k inMap
    case zoneOf => intro k inMap; rw [entries]; exact law.zoneOf k inMap
    case dni => simpa [State.DniLaw] using law.dni

theorem release {i : Nat} (leaving : (s.helio i).st = .leaving) : (releaseAll i s).LedgerLaw := by
  have inTable := lt_of_not_vacant s i (by rw [leaving]; decide)
  have record : (releaseAll i s).helio i = (s.helio i).released := by
    rw [releaseAll_sums, releaseSums_helio, releaseSums_helio, helio_setHelio_self _ _ _ inTable]
  have st : (s.helio i).released.st = .clear := toState_st ..
  have primary : (s.helio i).released.primary = none := toState_primary ..
  have transfer : (s.helio i).released.transfer = none := toState_transfer ..
  have claims := claims_none primary transfer
  refine law.of_change (i := i) ?others ⟨?own, ?weight⟩ ?committed ?leaving ?users ?free ?zoneOf ?dni
  case others =>
    intro j ne
    rw [releaseAll_sums, releaseSums_helio, releaseSums_helio, helio_setHelio_ne _ _ _ _ ne]
  case own =>
    rw [reservationLaw_iff, record, claims, st]
    exact ⟨⟨primary, transfer⟩, fun _ m => nomatch m⟩
  case weight => rw [record]; exact (toState_weight ..).trans_le (law.record i).2
  case committed =>
    intro z zone
    have held := law.amount_le inTable zone
    rw [releaseAll_zone _ _ _ zone, record, claims]
    exact Nat.sub_add_cancel held
  case leaving =>
    intro z zone
    have held := law.leavingIn_le inTable zone
    rw [leavingIn_of_leaving leaving] at held ⊢
    rw [releaseAll_zone _ _ _ zone, record, leavingIn_of_ne (h := (s.helio i).released) (by rw [st]; decide)]
    exact Nat.sub_add_cancel held
  case users =>
    intro k inMap
    have held := law.names_le inTable inMap
    rw [releaseAll_sums, (releaseSums_entry _ _ _ _ inMap).1, (releaseSums_entry _ _ _ _ inMap).1, ← releaseAll_sums, record, claims,
      setHelio_entry]
    rw [namesOf_claims] at held ⊢
    simp only [namesOf_nil]
    omega
  case free => rw [releaseAll_sums]; exact releaseSums_freeUnused _ _ _ (releaseSums_freeUnused _ _ _ law.free)
  case zoneOf =>
    intro k inMap
    rw [releaseAll_sums, releaseSums_entry_zone, releaseSums_entry_zone]
    exact law.zoneOf k inMap
  case dni => rw [releaseAll_sums, releaseSums_dniLaw, releaseSums_dniLaw]; exact law.dni

theorem promote {i : Nat} (retarget : (s.helio i).st = .retarget) : (promote i s).LedgerLaw := by
  have inTable := lt_of_not_vacant s i (by rw [retarget]; decide)
  obtain ⟨p, t, primary, transfer, -⟩ : HState.Fits .retarget _ _ := retarget ▸ law.fits i
  have record : (Machine.promote i s).helio i = (s.helio i).promoted := by
    rw [promote_sums, releaseSums_helio, helio_setHelio_self _ _ _ inTable]
  have st : (s.helio i).promoted.st = .onTarget := toState_st ..
  have primary' : (s.helio i).promoted.primary = some t := (toState_primary ..).trans transfer
  have transfer' : (s.helio i).promoted.transfer = none := toState_transfer ..
  have claims : (s.helio i).promoted.claims = [t] := by simp [Helio.claims, primary', transfer']
  have held : (s.helio i).claims = [p, t] := by simp [Helio.claims, primary, transfer]
  refine law.of_change (i := i) ?others ⟨?own, ?weight⟩ ?committed ?leaving ?users ?free ?zoneOf ?dni
  case others =>
    intro j ne
    rw [promote_sums, releaseSums_helio, helio_setHelio_ne _ _ _ _ ne]
  case own =>
    rw [reservationLaw_iff, record, claims, st, primary', transfer']
    exact ⟨⟨rfl, rfl⟩, fun r m => law.bounds (i := i) (by rw [held]; exact List.mem_cons_of_mem p m)⟩
  case weight => rw [record]; exact (toState_weight ..).trans_le (law.record i).2
  case committed =>
    intro z zone
    have sum := law.amount_le inTable zone
    rw [promote_sums, releaseSums_zone _ _ _ _ zone, ← promote_sums, record, claims, primary]
    rw [held, ← List.singleton_append, amountIn_append] at sum ⊢
    simp only [Option.toList_some, setHelio_zone]
    omega
  case leaving =>
    intro z zone
    rw [leavingIn_of_ne (by rw [retarget]; decide), record, leavingIn_of_ne (by rw [st]; decide), promote_sums,
      releaseSums_zone _ _ _ _ zone]
    rfl
  case users =>
    intro k inMap
    have sum := law.names_le inTable inMap
    rw [promote_sums, (releaseSums_entry _ _ _ _ inMap).1, ← promote_sums, record, claims, primary]
    rw [held, ← List.singleton_append, namesOf_append] at sum ⊢
    simp only [Option.toList_some, setHelio_entry]
    omega
  case free => rw [promote_sums]; exact releaseSums_freeUnused _ _ _ law.free
  case zoneOf =>
    intro k inMap
    rw [promote_sums, releaseSums_entry_zone]
    exact law.zoneOf k inMap
  case dni => rw [promote_sums, releaseSums_dniLaw]; exact law.dni

/-- A reservation held changes its amount, and the committed sum of its zone follows (R76, R78). -/
theorem reprice {i c : Nat} {held : Reservation} {h : Helio} {a b : List Reservation} (inTable : i < Config.nHelio)
    (before : (s.helio i).claims = a ++ [held] ++ b) (after : h.claims = a ++ [{ held with amount := c }] ++ b) (light : c ≤ 91749)
    (fits : h.st.Fits h.primary h.transfer) (weight : h.weight ≤ 65535) (staying : (s.helio i).st ≠ .leaving)
    (staying' : h.st ≠ .leaving) : (Machine.reprice held.zone held.amount c (s.setHelio i h)).LedgerLaw := by
  have record : (Machine.reprice held.zone held.amount c (s.setHelio i h)).helio i = h := helio_setHelio_self _ _ _ inTable
  have bounds (r : Reservation) (m : r ∈ a ++ [held] ++ b) : r.InBounds := law.bounds (before ▸ m)
  refine law.of_change (i := i) (fun j ne => helio_setHelio_ne s i j h ne) ⟨?own, ?weight⟩ ?committed ?leaving ?users law.free law.zoneOf
    law.dni
  case own =>
    rw [record, reservationLaw_iff, after]
    refine ⟨fits, fun r m => ?_⟩
    simp only [List.mem_append, List.mem_singleton] at m bounds
    obtain (first | rfl) | last := m
    · exact bounds r (.inl (.inl first))
    · obtain ⟨zone, slot, -⟩ := bounds held (.inl (.inr rfl))
      exact ⟨zone, slot, light⟩
    · exact bounds r (.inr last)
  case weight => rwa [record]
  case committed =>
    intro z zone
    have sum := law.amount_le inTable zone
    rw [record, after, reprice_zone _ _ _ _ _ zone, setHelio_zone]
    rw [before] at sum ⊢
    simp only [amountIn_append, amountIn_one] at sum ⊢
    by_cases named : held.zone = z
    · simp only [named, if_true] at sum ⊢
      omega
    · simp only [named, if_false]
  case leaving =>
    intro z zone
    rw [leavingIn_of_ne staying, record, leavingIn_of_ne staying', reprice_zone _ _ _ _ _ zone]
    rfl
  case users =>
    intro k _
    rw [record, before, after]
    simp only [namesOf_append, namesOf_one]
    rfl

theorem refresh {i cosq : Nat} (unit : cosq ≤ 4096) (calls : (s.helio i).st.calls = .onTarget) :
    (refreshPrimary i (s.contributionOf i cosq) s).LedgerLaw := by
  have staying : (s.helio i).st ≠ .leaving := by
    rw [ne_eq, leaving_iff_calls, calls]
    decide
  cases holds : (s.helio i).primary with
  | none => rwa [refreshPrimary_of_none holds]
  | some r =>
    rw [refreshPrimary_of_some holds]
    have fits := law.fits i
    rw [holds] at fits
    exact law.reprice (a := []) (b := (s.helio i).transfer.toList) (lt_of_primary holds) (by simp [Helio.claims, holds])
      (by simp [Helio.claims]) (law.contribution_le i unit) (fits_primary fits rfl) (law.record i).2 staying staying

theorem refreshMoving {i cosq : Nat} (unit : cosq ≤ 4096) (retarget : (s.helio i).st = .retarget) :
    (refreshTransfer i (s.contributionOf i cosq) s).LedgerLaw := by
  have staying : (s.helio i).st ≠ .leaving := by rw [retarget]; decide
  cases holds : (s.helio i).transfer with
  | none => rwa [refreshTransfer_of_none holds]
  | some r =>
    rw [refreshTransfer_of_some holds]
    have fits := law.fits i
    rw [holds] at fits
    exact law.reprice (a := (s.helio i).primary.toList) (b := []) (lt_of_transfer holds) (by simp [Helio.claims, holds])
      (by simp [Helio.claims]) (law.contribution_le i unit) (fits_transfer fits rfl) (law.record i).2 staying staying

theorem moveSlot {i k : Nat} (inMap : k < Config.nSlot) (enabled : (s.entry k).st = .enabled) : (Machine.moveSlot i k s).LedgerLaw := by
  cases holds : (s.helio i).primary with
  | none => rwa [moveSlot_of_none holds]
  | some r =>
    have inTable := lt_of_primary holds
    have record := moveSlot_helio holds k
    have before : (s.helio i).claims = [r] ++ (s.helio i).transfer.toList := by simp [Helio.claims, holds]
    have after : ((Machine.moveSlot i k s).helio i).claims = [{ r with slot := k }] ++ (s.helio i).transfer.toList := by
      simp [record, Helio.claims]
    have fits := law.fits i
    rw [holds] at fits
    have zones (z : Nat) : (Machine.moveSlot i k s).zone z = s.zone z := by rw [moveSlot_of_some holds]; simp
    have amounts (z : Nat) : amountIn z ((Machine.moveSlot i k s).helio i).claims = amountIn z (s.helio i).claims := by
      rw [before, after]
      simp only [amountIn_append, amountIn_one]
    refine law.of_change (i := i) ?others ⟨?own, ?weight⟩ ?committed ?leaving ?users ?free ?zoneOf ?dni
    case others =>
      intro j ne
      rw [moveSlot_of_some holds, incUser_helio, decUser_helio, helio_setHelio_ne _ _ _ _ ne]
    case own =>
      rw [reservationLaw_iff, after, record]
      refine ⟨fits_primary fits rfl, fun q m => ?_⟩
      obtain rfl | other := List.mem_cons.mp m
      · obtain ⟨zone, -, amount⟩ := law.bounds (i := i) (r := r) (by rw [before]; exact List.mem_cons_self)
        exact ⟨zone, inMap, amount⟩
      · exact law.bounds (i := i) (by rw [before]; exact List.mem_cons_of_mem _ other)
    case weight => rw [record]; exact (law.record i).2
    case committed => intro z _; rw [zones, amounts]
    case leaving =>
      intro z _
      rw [zones, Helio.leavingIn, Helio.leavingIn, amounts, moveSlot_st]
    case users =>
      intro m slot
      have sum := law.names_le inTable slot
      rw [after, moveSlot_of_some holds, incUser_entry_users _ _ _ slot, decUser_entry_users _ _ _ slot, setHelio_entry]
      rw [before] at sum ⊢
      simp only [namesOf_append, namesOf_one] at sum ⊢
      omega
    case free =>
      rw [moveSlot_of_some holds]
      exact incUser_freeUnused _ _ (decUser_freeUnused _ _ law.free) (decUser_enabled _ _ _ enabled)
    case zoneOf =>
      intro m slot
      rw [moveSlot_of_some holds, incUser_entry_zone, decUser_entry_zone]
      exact law.zoneOf m slot
    case dni =>
      rw [moveSlot_of_some holds, incUser_dniLaw, decUser_dniLaw]
      exact law.dni

theorem warm : (warmReset s).LedgerLaw := by
  have zone (z : Nat) : (warmReset s).zone z = (s.zone z).warm := by
    by_cases inTable : z < Config.nZone
    · simp [State.zone, warmReset, inTable]
    · rw [zone_of_ge inTable, zone_of_ge inTable]
      rfl
  have entry (k : Nat) : (warmReset s).entry k = (s.entry k).warm := by
    by_cases inMap : k < Config.nSlot
    · simp [State.entry, warmReset, inMap]
    · rw [entry_of_ge inMap, entry_of_ge inMap]
      rfl
  refine ledgerLaw_of_unreserved (fun i => ?_) (fun z => ?_) (fun k => ?_) (fun k inMap => ?_) ⟨law.dni.1, Nat.zero_le _, law.dni.2.2⟩
  · rw [warmReset_helio, Helio.warm]
    split
    · exact ⟨rfl, rfl, rfl, (law.record i).2⟩
    · rename_i vacant
      have vacant : (s.helio i).st = .vacant := by simpa [Helio.occupied] using vacant
      obtain ⟨primary, transfer⟩ : HState.Fits .vacant _ _ := vacant ▸ law.fits i
      exact ⟨primary, transfer, by rw [vacant]; rfl, (law.record i).2⟩
  · rw [zone]; exact ⟨rfl, rfl⟩
  · rw [entry]; rfl
  · rw [entry]; exact law.zoneOf k inMap

/-- Each move keeps the law. -/
theorem of_move {t : State} (move : LedgerMove s t) : t.LedgerLaw := by
  cases move with
  | keep same => exact law.of_keeps same
  | replace i h unreserved primary transfer calls weight => exact law.replace unreserved primary transfer calls weight
  | load k e free users zone => exact law.load free users zone
  | disable k => exact law.disable k
  | leave i => exact law.leave i
  | release i leaving => exact law.release leaving
  | promote i retarget => exact law.promote retarget
  | refresh i cosq unit calls => exact law.refresh unit calls
  | refreshMoving i cosq unit retarget => exact law.refreshMoving unit retarget
  | moveSlot i k inMap enabled => exact law.moveSlot inMap enabled
  | warm => exact law.warm
  | cold => exact coldReset_ledgerLaw s

/-- So does a chain of moves. -/
theorem of_moves {t : State} (moves : s.Moves t) : t.LedgerLaw := by
  induction moves with
  | refl => exact law
  | tail _ move kept => exact kept.of_move move

/-- A reservation that joins what a record holds, which is not LEAVING, is charged to its zone and counted in its slot (R58, R66). -/
theorem join {i : Nat} {r : Reservation} {h : Helio} (inTable : i < Config.nHelio) (bounds : r.InBounds)
    (enabled : (s.entry r.slot).st = .enabled) (claims : h.claims = (s.helio i).claims ++ [r]) (fits : h.st.Fits h.primary h.transfer)
    (weight : h.weight ≤ 65535) (staying : (s.helio i).st ≠ .leaving) (staying' : h.st ≠ .leaving) :
    (incUser r.slot ((s.setHelio i h).charge r)).LedgerLaw := by
  have record : (incUser r.slot ((s.setHelio i h).charge r)).helio i = h := helio_setHelio_self _ _ _ inTable
  refine law.of_change (i := i) (fun j ne => helio_setHelio_ne s i j h ne) ⟨?own, ?weight⟩ ?committed ?leaving ?users ?free ?zoneOf law.dni
  case own =>
    rw [record, reservationLaw_iff, claims]
    refine ⟨fits, fun q m => ?_⟩
    obtain held | new := List.mem_append.mp m
    · exact law.bounds held
    · rwa [List.mem_singleton.mp new]
  case weight => rwa [record]
  case committed =>
    intro z zone
    rw [record, claims, incUser_zone, charge_zone _ _ _ zone, amountIn_append, setHelio_zone]
    dsimp only
    omega
  case leaving =>
    intro z zone
    rw [record, leavingIn_of_ne staying, leavingIn_of_ne staying', incUser_zone, charge_zone _ _ _ zone]
    rfl
  case users =>
    intro k inMap
    rw [record, claims, incUser_entry_users _ _ _ inMap, namesOf_append, namesOf_one]
    change (s.entry k).users + _ + _ = _
    omega
  case free => exact incUser_freeUnused _ _ law.free enabled
  case zoneOf =>
    intro k inMap
    rw [incUser_entry_zone]
    exact law.zoneOf k inMap

/-- An admission keeps the law. -/
theorem of_admission {t : State} {i : Nat} {r : Reservation} (admitted : Admission i r s t) (bounds : r.InBounds)
    (enabled : (s.entry r.slot).st = .enabled) : t.LedgerLaw := by
  cases admitted with
  | first clear =>
    obtain ⟨primary, transfer⟩ : HState.Fits .clear _ _ := clear ▸ law.fits i
    rw [admitPrimary_eq]
    refine law.join (lt_of_not_vacant s i (by rw [clear]; decide)) bounds enabled ?_ ?_ ?_ (by rw [clear]; decide) (by simp)
    · simp [Helio.claims, primary, transfer]
    · simp [HState.Fits, transfer]
    · simpa using (law.record i).2
  | transfer held holds other calls =>
    obtain ⟨-, transfer⟩ := (fits_onTarget calls).mp (law.fits i)
    rw [admitTransfer_eq]
    refine law.join (lt_of_primary holds) bounds enabled ?_ ?_ ?_ (by rw [ne_eq, leaving_iff_calls, calls]; decide) (by simp)
    · simp [Helio.claims, holds, transfer]
    · simpa [HState.Fits, holds] using other.symm
    · simpa using (law.record i).2

/-- A visit that admits a heliostat keeps the law: the amount is a contribution, the zone one of the entry's. -/
theorem of_admits {t : State} {i : Nat} {r : Reservation} (admits : s.Admits t i r) : t.LedgerLaw := by
  obtain ⟨⟨u, v, before, admitted, after⟩, ⟨-, -, -, -, enabled, -, zone⟩, inMap, cosq, unit, amount⟩ := admits
  have bounds : r.InBounds := ⟨zone ▸ law.zoneOf _ inMap, inMap, amount ▸ law.contribution_le i unit⟩
  exact ((law.of_keeps before).of_admission admitted bounds ((before.entries _).2.1.trans enabled)).of_keeps after

end State.LedgerLaw

end Sys2Proof.Machine
end

section
/-! The ledger, last part: what a step gains, and the two statements. -/

namespace Sys2Proof.Machine

/-! ## What a step does to the ledger -/

/-- A step is a chain of moves, or a visit that admits one heliostat. -/
theorem step_cases {s t : State} (answers : step s = .next t) : s.Moves t ∨ ∃ i r, s.Admits t i r := by
  unfold step at answers
  split at answers
  · exact .inl (idleStep_moves answers)
  · rename_i c rest _
    by_cases visit : c = .visit
    · rw [visit] at answers
      obtain moves | ⟨i, r, admits⟩ := execVisit_cases answers
      · exact .inl (moves.after rfl)
      · exact .inr ⟨i, r, admits.of_pending⟩
    · exact .inl ((exec_moves visit answers).after rfl)

/-! ## No gain -/

/-- From h to g a record gains no reservation: no transfer where it had none, and no primary where it had nothing. -/
structure Helio.NoGain (h g : Helio) : Prop where
  transfer : h.transfer = none → g.transfer = none
  primary  : h.primary = none → h.transfer = none → g.primary = none

namespace Helio.NoGain

theorem trans {a b c : Helio} (ab : a.NoGain b) (bc : b.NoGain c) : a.NoGain c where
  transfer := bc.transfer ∘ ab.transfer
  primary primary transfer := bc.primary (ab.primary primary transfer) (ab.transfer transfer)

theorem of_keeps {h g : Helio} (k : h.KeepsClaims g) : h.NoGain g :=
  ⟨fun transfer => k.transfer.trans transfer, fun primary _ => k.primary.trans primary⟩

theorem of_none {h g : Helio} (primary : g.primary = none) (transfer : g.transfer = none) : h.NoGain g :=
  ⟨fun _ => transfer, fun _ _ => primary⟩

theorem of_primary {h g : Helio} {r : Reservation} (holds : h.primary = some r) (transfer : g.transfer = h.transfer) : h.NoGain g :=
  ⟨transfer.trans, fun absent => nomatch holds.symm.trans absent⟩

theorem of_transfer {h g : Helio} {r : Reservation} (holds : h.transfer = some r) : h.NoGain g :=
  ⟨fun absent => (nomatch holds.symm.trans absent), fun _ absent => nomatch holds.symm.trans absent⟩

theorem gains {h g : Helio} (n : h.NoGain g) : h.gains g = none := by
  unfold Helio.gains
  split
  · rename_i c
    rw [n.transfer c.1] at c
    simp at c
  · split
    · rename_i c
      exact n.primary c.1 c.2
    · rfl

end Helio.NoGain

/-- One record written that gains nothing: no record gains anything. -/
theorem noGain_setHelio {s : State} {i : Nat} {h : Helio} (n : (s.helio i).NoGain h) (j : Nat) :
    (s.helio j).NoGain ((s.setHelio i h).helio j) := by
  rw [helio_setHelio]
  split
  · rename_i written
    obtain ⟨rfl, -⟩ := written
    exact n
  · exact .of_keeps (.refl _)

/-- No move gains a reservation. -/
theorem LedgerMove.noGain {s t : State} (move : LedgerMove s t) (j : Nat) : (s.helio j).NoGain (t.helio j) := by
  have kept : (s.helio j).NoGain (s.helio j) := .of_keeps (.refl _)
  cases move with
  | keep same => exact .of_keeps (same.records j)
  | replace i h unreserved primary transfer => exact noGain_setHelio (.of_none primary transfer) j
  | load | disable => exact kept
  | leave i =>
    rw [enterLeaving_helio]
    split
    · rename_i own
      rw [← own.1]
      exact ⟨id, fun primary _ => primary⟩
    · exact kept
  | release i =>
    rw [releaseAll_sums, releaseSums_helio, releaseSums_helio]
    exact noGain_setHelio (.of_none (toState_primary ..) (toState_transfer ..)) j
  | promote i =>
    rw [promote_sums, releaseSums_helio]
    exact noGain_setHelio ⟨fun _ => toState_transfer .., fun _ transfer => (toState_primary ..).trans transfer⟩ j
  | refresh i cosq =>
    cases holds : (s.helio i).primary with
    | none => rwa [refreshPrimary_of_none holds]
    | some r =>
      rw [refreshPrimary_of_some holds]
      exact noGain_setHelio (.of_primary holds (by exact rfl)) j
  | refreshMoving i cosq =>
    cases holds : (s.helio i).transfer with
    | none => rwa [refreshTransfer_of_none holds]
    | some r =>
      rw [refreshTransfer_of_some holds]
      exact noGain_setHelio (.of_transfer holds) j
  | moveSlot i k =>
    cases holds : (s.helio i).primary with
    | none => rwa [moveSlot_of_none holds]
    | some r =>
      rw [moveSlot_of_some holds, incUser_helio, decUser_helio]
      exact noGain_setHelio (.of_primary holds (by exact rfl)) j
  | warm =>
    rw [warmReset_helio, Helio.warm]
    split
    · exact .of_none rfl rfl
    · exact kept
  | cold => rw [coldReset_helio]; exact .of_none rfl rfl

theorem State.Moves.noGain {s t : State} (moves : s.Moves t) (j : Nat) : (s.helio j).NoGain (t.helio j) := by
  induction moves with
  | refl => exact .of_keeps (.refl _)
  | tail _ move gained => exact gained.trans (move.noGain j)

/-- An admission gains the reservation of its heliostat, and nothing else. -/
theorem Admission.gains {s t : State} {i j : Nat} {r r' : Reservation} (admitted : Admission i r s t) {h g : Helio}
    (before : h.KeepsClaims (s.helio j)) (after : (t.helio j).KeepsClaims g) (gained : h.gains g = some r') : j = i ∧ r' = r := by
  have ne_none (n : (s.helio j).NoGain (t.helio j)) : j = i ∧ r' = r := by
    rw [((Helio.NoGain.of_keeps before).trans (n.trans (.of_keeps after))).gains] at gained
    cases gained
  by_cases own : j = i
  · subst own
    refine ⟨rfl, ?_⟩
    cases admitted with
    | first clear =>
      have inTable := lt_of_not_vacant s j (by rw [clear]; decide)
      have record : (admitPrimary j r s).helio j = { s.helio j with primary := some r }.toState .approach :=
        helio_setHelio_self _ _ _ inTable
      have primary : g.primary = some r := by rw [after.primary, record, toState_primary]
      have transfer : g.transfer = h.transfer := by rw [after.transfer, record, toState_transfer, ← before.transfer]
      unfold Helio.gains at gained
      split at gained
      · rename_i new
        rw [transfer, new.1] at new
        simp at new
      · split at gained
        · exact Option.some.inj (gained.symm.trans primary)
        · cases gained
    | transfer held holds other calls =>
      have record : (admitTransfer j r s).helio j = { s.helio j with transfer := some r }.toState .retarget :=
        helio_setHelio_self _ _ _ (lt_of_primary holds)
      have primary : h.primary = some held := before.primary.symm.trans holds
      have transfer : g.transfer = some r := by rw [after.transfer, record, toState_transfer]
      unfold Helio.gains at gained
      split at gained
      · exact Option.some.inj (gained.symm.trans transfer)
      · split at gained
        · rename_i absent
          exact nomatch primary.symm.trans absent.1
        · cases gained
  · apply ne_none
    cases admitted with
    | first =>
      rw [show (admitPrimary i r s).helio j = s.helio j from helio_setHelio_ne _ _ _ _ own]
      exact .of_keeps (.refl _)
    | transfer =>
      rw [show (admitTransfer i r s).helio j = s.helio j from helio_setHelio_ne _ _ _ _ own]
      exact .of_keeps (.refl _)

/-! ## The statements -/

/-- Settles O52: each move of the ledger keeps its law by the accounting of one record, and so does an admission. -/
theorem ledgerLawKept : Obligations.LedgerLawKept := by
  unfold Obligations.LedgerLawKept
  intro s t law answers
  have kept : t.LedgerLaw := by
    obtain moves | ⟨i, r, admits⟩ := step_cases answers
    · exact law.of_moves moves
    · exact law.of_admits admits
  exact ⟨kept, fun z inTable => kept.bound inTable⟩

/-- Settles O59: no move of the ledger gains a reservation, and a visit admits only what R74 allows. -/
theorem reservationsCreatedOnlyWhenAllowed : Obligations.ReservationsCreatedOnlyWhenAllowed := by
  unfold Obligations.ReservationsCreatedOnlyWhenAllowed
  intro s t i r answers gained
  obtain moves | ⟨j, q, admits⟩ := step_cases answers
  · rw [(moves.noGain i).gains] at gained
    cases gained
  · obtain ⟨u, v, before, admitted, after⟩ := admits.admission
    obtain ⟨rfl, rfl⟩ := admitted.gains (before.records i) (after.records i) gained
    exact admits.allowed

end Sys2Proof.Machine
end

section
/-! One wind sample (O46, R139 to R142, R154). The weather after a sample is a function of the weather and the limits alone: the ring
with the speed appended, its two means, and the wind state and settle count that R140's table gives. What the sample does to the rest
of the state depends only on whether the wind state changed, and on whether it became WINDY. -/

namespace Sys2Proof.Machine

/-! ## The ring and its means (R139) -/

/-- The ring after a sample: the oldest of 240 makes room for the current speed (R139). -/
def Weather.nextRing (w : Weather) : List Nat := (if w.ring.length = 240 then w.ring.tail else w.ring) ++ [w.speed]

/-- On a ring within its 240 places the model drops at most the oldest speed. -/
theorem appendSample_ring {w : Weather} (inRange : w.ring.length ≤ 240) : (appendSample w).ring = w.nextRing := by
  unfold appendSample Weather.nextRing
  dsimp only
  by_cases full : w.ring.length = 240
  · rw [if_pos full.ge, if_pos full, full, List.drop_one]
  · rw [if_neg (by omega), if_neg full]

/-- The gust is the mean of the newest 12, or of all where there are fewer (R139). -/
theorem appendSample_gust (w : Weather) : (appendSample w).gust =
    ((appendSample w).ring.drop ((appendSample w).ring.length - 12)).sum / min 12 (appendSample w).ring.length := by
  have newest (xs : List Nat) : (xs.drop (xs.length - 12)).length = min 12 xs.length := by
    rw [List.length_drop]
    omega
  exact congrArg (_ / ·) (newest (appendSample w).ring)

/-! ## The wind state (R140, R141) -/

/-- R140's table with the settle count of R141. The row of WINDY is left only when the wind is quiet and not exceeding. -/
theorem windNext_eq (l : Config.Limits) (w : Weather) : windNext l w =
    match w.wind with
    | .calm => if w.exceeding l then (.windy, 0) else if w.quiet l then (.calm, w.settle) else (.settling, 0)
    | .windy => if w.exceeding l = false ∧ w.quiet l = true then (.settling, 0) else (.windy, 0)
    | .settling =>
      if w.exceeding l then (.windy, 0) else if w.quiet l = false then (.settling, 0)
      else if l.resumeHold * 4 ≤ w.settle + 1 then (.calm, w.settle + 1) else (.settling, w.settle + 1) := by
  unfold windNext
  cases w.wind with
  | calm => rfl
  | windy =>
    cases w.exceeding l
    · cases w.quiet l <;> rfl
    · rfl
  | settling =>
    cases w.exceeding l
    · cases w.quiet l
      · rfl
      · by_cases held : l.resumeHold * 4 ≤ w.settle + 1
        · simp [held]
        · simp [held]
    · rfl

/-- The weather after a sample, the sample timer loaded anew (R139 to R141). -/
def Weather.sampled (l : Config.Limits) (w : Weather) : Weather :=
  let a := appendSample { w with sampleLeft := Config.sampleUs }
  { a with wind := (windNext l a).1, settle := (windNext l a).2 }

/-! ## The wind stow (R148, R154) -/

section EnterStowing
variable (s : State)

/-- Whatever the mode, an entry into STOWING writes the supervisor, the sweep and the notices alone, and no pending notice is lost. -/
theorem enterStowing_frame : ∃ sup sweep n, enterStowing s = { s with sup := sup, sweep := sweep, notices := n }
    ∧ ∀ src, inSet s.notices.pend src = true → inSet n.pend src = true := by
  rw [enterStowing_eq]
  split
  · exact ⟨_, _, _, rfl, fun src pending => by rw [raise_pend, pending, Bool.true_or]⟩
  · exact ⟨_, _, _, rfl, fun _ pending => pending⟩

@[simp] theorem enterStowing_weather : (enterStowing s).weather = s.weather := by
  obtain ⟨_, _, _, e, -⟩ := enterStowing_frame s; rw [e]

@[simp] theorem enterStowing_exc : (enterStowing s).exc = s.exc := by
  obtain ⟨_, _, _, e, -⟩ := enterStowing_frame s; rw [e]

@[simp] theorem enterStowing_link : (enterStowing s).link = s.link := by
  obtain ⟨_, _, _, e, -⟩ := enterStowing_frame s; rw [e]

theorem enterStowing_sansPort : (enterStowing s).sansPort =
    { s with sup := (enterStowing s).sup, sweep := (enterStowing s).sweep }.sansPort := by
  obtain ⟨_, _, _, e, -⟩ := enterStowing_frame s; rw [e]; rfl

variable {s}

theorem enterStowing_pend {src : NoticeSrc} (pending : inSet s.notices.pend src = true) : inSet (enterStowing s).notices.pend src = true := by
  obtain ⟨_, _, _, e, kept⟩ := enterStowing_frame s
  rw [e]
  exact kept src pending

/-- From HALTED and TRACKING the field moves to STOWING and the stow pass begins (R154). -/
theorem enterStowing_sup_of_moves (moves : s.sup.mode = .halted ∨ s.sup.mode = .tracking) :
    (enterStowing s).sup = { s.sup with mode := .stowing, stowPass := some 0 } := by
  rw [enterStowing_eq, if_pos moves]

/-- In STOWING, STOWED and QUIET the supervisor stays as it is (R154). -/
theorem enterStowing_sup_of_stays (stays : s.sup.mode = .stowing ∨ s.sup.mode = .stowed ∨ s.sup.mode = .quiet) :
    (enterStowing s).sup = s.sup := by
  rw [enterStowing_eq, if_neg (by rintro (mode | mode) <;> simp [mode] at stays)]

end EnterStowing

/-- An occurrence of a field kind keeps every pending notice. -/
theorem raiseField_pend {k : ExcKind} {s : State} {src : NoticeSrc} (pending : inSet s.notices.pend src = true) :
    inSet (raiseField k s).notices.pend src = true := by
  obtain ⟨_, _, e, -, -, -, kept⟩ := raiseField_keeps k s
  rw [e]
  exact kept src pending

/-! ## The sample -/

/-- A sample in one equation: the weather always, WIND at a change, WIND_STOW and the stow at an entry into WINDY. -/
theorem exec_windSample {s : State} (running : s.inReset = false) {w : Weather} (sampled : w = s.weather.sampled s.limits) :
    exec .windSample s = .next (arbiter (
      if w.wind = s.weather.wind then { s with weather := w }
      else if w.wind = .windy then enterStowing (raiseField .windStow (notice .wind { s with weather := w }))
      else notice .wind { s with weather := w })) := by
  subst sampled
  exact act_true running takeSample

/-- Settles O46: the weather is the sampled one, and the three outcomes are the branches of the sample's equation. -/
theorem windSampleResult : Obligations.WindSampleResult := by
  unfold Obligations.WindSampleResult
  intro s running inRange
  obtain ⟨w, sampled⟩ : ∃ w, w = s.weather.sampled s.limits := ⟨_, rfl⟩
  have ring : w.ring = s.weather.nextRing := by
    rw [sampled]
    exact appendSample_ring inRange
  have sample := exec_windSample running sampled
  refine ⟨w.ring, w.exceeding s.limits, w.quiet s.limits, w.wind, w.settle, w, ring, rfl, ?sustained, ?gust, rfl, rfl,
    ?table, ?weather, ?same, ?changed, ?windy⟩
  case sustained =>
    rw [sampled]
    rfl
  case gust =>
    rw [sampled]
    exact appendSample_gust _
  case table =>
    rw [sampled]
    exact windNext_eq s.limits (appendSample { s.weather with sampleLeft := Config.sampleUs })
  case weather =>
    rw [sampled]
    rfl
  case same =>
    intro same
    rw [sample, if_pos same]
  case changed =>
    intro changed notWindy
    rw [sample, if_neg changed, if_neg notWindy]
    rfl
  case windy =>
    intro changed windy
    rw [if_neg changed, if_pos windy] at sample
    refine ⟨_, sample, ?_, enterStowing_pend (raiseField_pend ?_), ?_,
      fun moves => enterStowing_sup_of_moves moves, fun stays => enterStowing_sup_of_stays stays, ?_, ?_⟩
    · simp
    · simp [raise_pend]
    · simp
    · rw [enterStowing_sansPort, enterStowing_exc]
      rfl
    · simp

end Sys2Proof.Machine
end

section
/-! The conversion cycle (O47, R143 to R146). A cycle ends with a reading or with a sensor fault; the two ways to a fault, the timeout and
the code 0xFFFF, are one operation. -/

namespace Sys2Proof.Machine

/-- A code below 0xFFFF that is clocked in is a reading (R144). -/
theorem exec_conversionComplete_of_reading {s : State} {code : BitVec 16} (running : s.inReset = false)
    (reading : s.weather.conv = .reading) (valid : code ≠ 0xFFFF#16) :
    exec (.conversionComplete code) s = .next (arbiter (takeReading code.toNat s)) := by
  have taken : takeCode code s = takeReading code.toNat s := if_neg valid
  rw [← taken]
  exact act_of running (by rw [reading]; rfl) (takeCode code)

/-- What ends a cycle in a sensor fault: the ready timeout, or the code 0xFFFF (R146). -/
def State.faultyEnd (s : State) (c : Instr) : Prop :=
  (c = .dniReadyTimeout ∧ ∃ us, s.weather.conv = .converting us)
    ∨ (c = .conversionComplete 0xFFFF#16 ∧ s.weather.conv = .reading)

/-- Both ends do the same (R146). -/
theorem exec_of_faultyEnd {s : State} {c : Instr} (running : s.inReset = false) (faulty : s.faultyEnd c) :
    exec c s = .next (arbiter (sensorFaultCycle s)) := by
  obtain ⟨rfl, us, converting⟩ | ⟨rfl, reading⟩ := faulty
  · exact act_of running (by rw [converting]; rfl) sensorFaultCycle
  · exact act_of running (by rw [reading]; rfl) (takeCode 0xFFFF#16)

/-- The weather after a faulty cycle: the last reading stays, and dni_used is at least the fallback limit (R146). -/
def State.faultedWeather (s : State) : Weather :=
  { s.weather with conv := .waiting, sensorFault := true, dni := max s.weather.dni s.limits.fallback }

/-- While the sensor fault lasts a faulty cycle raises nothing (R146). -/
theorem sensorFaultCycle_of_lasting {s : State} (lasting : s.weather.sensorFault = true) :
    sensorFaultCycle s = { s with weather := s.faultedWeather } := if_pos lasting

/-- The entry into the sensor fault raises DNI_SENSOR (R146). -/
theorem sensorFaultCycle_of_entry {s : State} (entry : s.weather.sensorFault = false) :
    sensorFaultCycle s = raiseField .dniSensor { s with weather := s.faultedWeather } :=
  if_neg (Bool.not_eq_true _ ▸ entry)

/-- Settles O47: each end of a cycle is a reading or the one faulty cycle, which either lasts or is entered. -/
theorem conversionCycle : Obligations.ConversionCycle := by
  unfold Obligations.ConversionCycle
  refine ⟨fun s running => ⟨act_true running _, ?ready, ?reading⟩, ?faulty⟩
  case ready =>
    intro us converting
    exact act_of running (by rw [converting]; rfl) _
  case reading =>
    intro code reading valid
    exact ⟨readingOf s.limits.span code.toNat, rfl, exec_conversionComplete_of_reading running reading valid⟩
  case faulty =>
    intro s c running faulty
    have cycle : exec c s = .next (arbiter (sensorFaultCycle s)) := exec_of_faultyEnd running faulty
    refine ⟨s.faultedWeather, rfl, ?lasting, ?entry⟩
    case lasting =>
      intro lasting
      rw [cycle, sensorFaultCycle_of_lasting lasting]
    case entry =>
      intro entry
      rw [sensorFaultCycle_of_entry entry] at cycle
      exact ⟨_, cycle, rfl, raiseField_flags .., rfl, rfl⟩

end Sys2Proof.Machine
end

section
/-! SET_MASKS, CLEAR_FLAGS and SET_NOTICES (O14, R171 to R173, R177). The first two change the exception unit through `setExc` alone, and
the third changes the enable set alone; each row's equation says what it leaves and answers when the port is about to carry it out. -/

namespace Sys2Proof.Machine

/-! ## ALERT evaluated anew (R171) -/

/-- Whatever the flags and masks become, ALERT agrees with them. -/
theorem setExc_alertLaw (e : Exc) (s : State) : (setExc e s).AlertLaw := alertLevel_iff e.flags e.masks

/-- With no flag set ALERT is deasserted, whatever the masks. -/
theorem alertLevel_zero (masks : BitVec 16) : alertLevel 0#16 masks = false := by
  simp [alertLevel]

/-- An exception unit left without flags deasserts ALERT and raises no notice. -/
theorem setExc_of_no_flags {e : Exc} (clear : e.flags = 0#16) (s : State) :
    setExc e s = { s with exc := { e with alert := false } } := by
  have level : alertLevel e.flags e.masks = false := clear ▸ alertLevel_zero e.masks
  rw [setExc, level]
  rfl

/-! ## The enables replaced (R177) -/

/-- A source is due after the change when it is enabled now, and was due before or is pending and newly enabled. -/
theorem withEnable_due (e : BitVec 6) (n : Notices) (src : NoticeSrc) :
    inSet (n.withEnable e).due src = (inSet e src && (inSet n.due src || (inSet n.pend src && !inSet n.enable src))) := by
  rw [Notices.withEnable, inSet_or, inSet_and, inSet_and, inSet_and, inSet_not]
  cases inSet e src
  · simp
  · simp

/-- A byte with no bit outside the six sources is a notice set (R189). -/
theorem noticeSetOf_of_lt {v : Nat} (b : v < 64) : noticeSetOf v = some (BitVec.ofNat 6 v) := if_pos b

theorem noticeSetOf_of_ge {v : Nat} (b : 64 ≤ v) : noticeSetOf v = none := if_neg (Nat.not_lt.mpr b)

/-! ## What each row answers -/

section Rows
variable {s : State} {r : Req}

/-- The masks are answered as stored, with the ALERT level after the access (R172). -/
theorem exec_setMasks_of_asks {m : Nat} (b : m < 65536) (asked : s.asks r 0x04#8 (natBytes 2 m))
    {u : State} (stored : u = setExc { s.exc with masks := BitVec.ofNat 16 m } s) :
    exec .setMasks s = .next (u.answered r [0x00#8 :: (natBytes 2 m ++ boolByte u.exc.alert)]) := by
  have served : exec .setMasks s =
      .next ((setMasksHandler (natBytes 2 m) s).1.answered r (setMasksHandler (natBytes 2 m) s).2) :=
    request_asks asked (by rw [natBytes_length]; rfl) rfl setMasksHandler
  have masks : u.exc.masks.toNat = m := by
    rw [stored]
    exact Nat.mod_eq_of_lt b
  rw [served, setMasksHandler, fieldNat_all b, ← stored]
  dsimp only
  rw [masks]
  rfl

theorem exec_clearFlags_of_asks (asked : s.asks r 0x28#8 []) :
    exec .clearFlags s =
      .next ((setExc { s.exc with flags := 0#16, fault := none, count := 0 } s).answered r [[0x00#8]]) :=
  request_asks asked rfl rfl clearFlagsHandler

/-- A set with a bit outside the six is refused, and any other replaces the enables (R177, R189). -/
theorem exec_setNotices_of_asks {v : Nat} (b : v < 256) (asked : s.asks r 0x29#8 (byte1 v)) :
    exec .setNotices s = .next (
      if 64 ≤ v then s.answered r [[0x03#8]]
      else { s with notices := s.notices.withEnable (BitVec.ofNat 6 v) }.answered r
        [[0x00#8, BitVec.ofNat 8 v, BitVec.ofNat 8 s.notices.pend.toNat]]) := by
  have served : exec .setNotices s =
      .next ((setNoticesHandler (byte1 v) s).1.answered r (setNoticesHandler (byte1 v) s).2) :=
    request_asks asked rfl rfl setNoticesHandler
  rw [served, setNoticesHandler, fieldNat_byte1_all b]
  obtain undefined | defined := le_or_gt 64 v
  · rw [noticeSetOf_of_ge undefined, if_pos undefined]
    rfl
  · have enables : (BitVec.ofNat 6 v).toNat = v := Nat.mod_eq_of_lt defined
    rw [noticeSetOf_of_lt defined, if_neg (Nat.not_le.mpr defined)]
    dsimp only
    rw [enables]
    rfl

end Rows

/-! ## The statement -/

/-- Settles O14: the masks and the cleared flags go through `setExc`, which evaluates ALERT anew, and the enables through
`Notices.withEnable`. -/
theorem masksFlagsAndEnables : Obligations.MasksFlagsAndEnables := by
  unfold Obligations.MasksFlagsAndEnables
  refine ⟨?masks, ?flags, ?enables⟩
  case masks =>
    intro s r m b asked
    exact ⟨_, exec_setMasks_of_asks b asked rfl, rfl, setExc_alertLaw _ s, rfl, rfl, rfl⟩
  case flags =>
    intro s r asked
    rw [exec_clearFlags_of_asks asked, setExc_of_no_flags rfl]
  case enables =>
    intro s r v b asked
    have row := exec_setNotices_of_asks b asked
    refine ⟨fun undefined => ?refused, fun defined => ⟨s.notices.withEnable (BitVec.ofNat 6 v), ?replaced, rfl, withEnable_due _ _⟩⟩
    case refused => rw [row, if_pos undefined]
    case replaced => rw [row, if_neg (Nat.not_le.mpr defined)]

end Sys2Proof.Machine
end

section
/-! The laws of a run (O51, O53 to O56, O58, O60), first part: what each law says of one record, entry, zone or register, and how a
record may evolve. A step is then a chain of operations that each change a few of these parts and keep what the laws say of them. -/

namespace Sys2Proof.Machine

/-! ## What the laws say of the parts -/

/-- The commanded and the pending target lie within the travel of class c (R33). -/
def Helio.InTravel (c : DriveClass) (h : Helio) : Prop :=
  (∀ t, h.commanded = some t → t.inTravel c) ∧ (∀ t, h.pendingT = some t → t.inTravel c)

/-- The counts and the reported fault code of a record lie in their ranges (Table 2-2). -/
def Helio.InRange (h : Helio) : Prop := h.misses ≤ 15 ∧ h.lag ≤ 255 ∧ ∀ p, h.reported = some p → p.fault ≤ 4

/-- Both allowances of a zone lie in their range (R68). -/
def Zone.InRange (z : Zone) : Prop := z.active ≤ 16777215 ∧ ∀ v, z.pending = some v → v ≤ 16777215

/-- The counters and the sequence of the notices lie in their ranges (R178, R179). -/
def Notices.InRange (n : Notices) : Prop := n.missCount ≤ 65535 ∧ n.quietCount ≤ 65535 ∧ n.seq ≤ 255

/-- Strategies, number and position of the sweeps lie in their ranges (Table 5-1, R63). -/
def Sweep.InRange (w : Sweep) : Prop :=
  (w.active ≤ 15 ∧ w.snapStrategy ≤ 15 ∧ ∀ v, w.pendingStrategy = some v → v ≤ 15) ∧ w.number < 4294967296
    ∧ ∀ i, w.progress = some i → i ≤ 2047

/-- A read that is being carried out has records left, and stays within the table (R46). -/
def Work.InRange (w : Work) : Prop :=
  ∀ first left entries, w = .read first left entries → 1 ≤ left ∧ first + entries.length + left ≤ 2048

/-- Cursor, receive queue and FULL list lie in their ranges (R45, R46, R181). -/
def PortInRange (cursor : Nat) (queue : List Req) (fullList : List (Byte × Byte)) : Prop :=
  cursor ≤ 2048 ∧ queue.length ≤ 4 ∧ fullList.length ≤ 4 ∧ ∀ r ∈ queue, ∀ w, r.work = some w → w.InRange

/-- What the mode law says, of the registers that it reads. -/
structure ModeAgrees (mode : Mode) (sunPresent : Bool) (stowPass : Option Nat) (sweep : Sweep) (quiet : Fin Config.nLine → Bool) :
    Prop where
  sun      : mode = .tracking → sunPresent = true
  stowPass : stowPass.isSome → mode = .stowing
  timer    : sweep.timer ≠ .stopped → mode = .tracking
  waiting  : sweep.startWaiting = true → mode = .tracking ∧ sweep.progress.isSome
  expired  : sweep.timer = .expired → sweep.startWaiting = true
  goesOn   : mode = .tracking → sweep.timer.isRunning = true ∨ sweep.startWaiting = true
  snapshot : sweep.progress.isSome → sweep.snapSun.isSome
  quiet    : ∀ n, quiet n = true ↔ mode = .quiet

/-- Which lines have a quiet timer running. -/
def State.quietLines (s : State) (n : Fin Config.nLine) : Bool := (s.line n).quiet.isSome

/-- What the mode law says of a state, its registers given. -/
def State.ModesAgree (s : State) : Prop := ModeAgrees s.sup.mode s.sup.sunPresent s.sup.stowPass s.sweep s.quietLines

theorem line_fin (s : State) (n : Fin Config.nLine) : s.lines[n] = s.line n := by simp [State.line]

theorem modeLaw_iff (s : State) : s.ModeLaw ↔ s.ModesAgree := by
  constructor
  · rintro ⟨sun, stowPass, timer, waiting, expired, goesOn, snapshot, quiet⟩
    exact ⟨sun, stowPass, timer, waiting, expired, goesOn, snapshot, fun n => by rw [State.quietLines, ← line_fin]; exact quiet n⟩
  · rintro ⟨sun, stowPass, timer, waiting, expired, goesOn, snapshot, quiet⟩
    exact ⟨sun, stowPass, timer, waiting, expired, goesOn, snapshot, fun n => by rw [line_fin]; exact quiet n⟩

/-- Every class's stow position lies in its travel, and the targets of every occupied record in its class's (R30, R33). -/
def State.TargetsInTravel (s : State) : Prop :=
  (∀ n, (stowTarget (s.driveClass n)).inTravel (s.driveClass n))
    ∧ ∀ i, (s.helio i).st ≠ .vacant → (s.helio i).InTravel (s.classOf i)

theorem stowTarget_default : (stowTarget {}).inTravel {} := by unfold Target.inTravel; decide

theorem travelLaw_iff (s : State) : s.TravelLaw ↔ s.TargetsInTravel := by
  constructor
  · rintro ⟨classes, records⟩
    refine ⟨fun n => ?_, fun i occupied => ?_⟩
    · by_cases inTable : n < Config.nClass
      · have read : s.driveClass n = s.classes[n] := by simp [State.driveClass, inTable]
        rw [read]
        exact classes _ (by simp)
      · have read : s.driveClass n = {} := by simp [State.driveClass, Vector.getElem?_eq_none (Nat.le_of_not_lt inTable)]
        rw [read]
        exact stowTarget_default
    · exact records _ ((mem_helios s _).mpr ⟨i, lt_of_not_vacant s i occupied, rfl⟩) occupied
  · rintro ⟨classes, records⟩
    refine ⟨fun c m => ?_, fun h m occupied => ?_⟩
    · obtain ⟨n, inTable, rfl⟩ := List.getElem_of_mem m
      have read : s.driveClass n = s.classes.toList[n] := by
        have inTable : n < Config.nClass := by simpa using inTable
        simp [State.driveClass, inTable]
      rw [← read]
      exact classes n
    · obtain ⟨i, -, rfl⟩ := (mem_helios s h).mp m
      exact records i occupied

/-- Two entries that do not conflict: disjoint spans, or different strategies of which neither is shared (R54). -/
def AimEntry.Apart (a b : AimEntry) : Prop :=
  a.base + a.size ≤ b.base ∨ b.base + b.size ≤ a.base ∨ (a.shared = false ∧ b.shared = false ∧ a.strategy ≠ b.strategy)

theorem AimEntry.Apart.symm {a b : AimEntry} (apart : a.Apart b) : b.Apart a := by
  obtain before | after | strategies := apart
  · exact .inr (.inl before)
  · exact .inl after
  · exact .inr (.inr ⟨strategies.2.1, strategies.1, strategies.2.2.symm⟩)

/-- Entries that are both ENABLED lie apart (R54). -/
def State.EntriesApart (s : State) : Prop :=
  ∀ j k, j ≠ k → (s.entry j).st = .enabled → (s.entry k).st = .enabled → (s.entry j).Apart (s.entry k)

theorem entry_lt {s : State} {k : Nat} (enabled : (s.entry k).st = .enabled) : k < Config.nSlot := by
  by_contra past
  rw [entry_of_ge past] at enabled
  cases enabled

theorem entry_fin (s : State) (k : Fin Config.nSlot) : s.entries[k] = s.entry k := by simp [State.entry]

theorem noConflict_iff (s : State) : s.NoConflict ↔ s.EntriesApart := by
  constructor
  · intro law j k ne ej ek
    have apart := law ⟨j, entry_lt ej⟩ ⟨k, entry_lt ek⟩ (by simpa using ne)
    simp only [entry_fin] at apart
    exact apart ej ek
  · intro law j k ne ej ek
    rw [entry_fin] at ej ek
    simp only [entry_fin]
    exact law j k (by simpa [Fin.ext_iff] using ne) ej ek

/-- Occupied records have places of their own on the lines (R37, R113). -/
def State.PlacesDistinct (s : State) : Prop :=
  ∀ i j, i ≠ j → (s.helio i).st ≠ .vacant → (s.helio j).st ≠ .vacant →
    ¬((s.helio i).line = (s.helio j).line ∧ (s.helio i).addr = (s.helio j).addr)

theorem helio_fin (s : State) (i : Fin Config.nHelio) : s.helios[i] = s.helio i := by simp [State.helio]

theorem uniqueAddress_iff (s : State) : s.UniqueAddress ↔ s.PlacesDistinct := by
  constructor
  · intro law i j ne oi oj
    have distinct := law ⟨i, lt_of_not_vacant s i oi⟩ ⟨j, lt_of_not_vacant s j oj⟩ (by simpa using ne)
    simp only [helio_fin] at distinct
    exact distinct oi oj
  · intro law i j ne oi oj
    rw [helio_fin] at oi oj
    simp only [helio_fin]
    exact law i j (by simpa [Fin.ext_iff] using ne) oi oj

theorem alertLaw_iff (s : State) : s.AlertLaw ↔ s.exc.alert = alertLevel s.exc.flags s.exc.masks := by
  rw [Bool.eq_iff_iff, alertLevel_iff]
  rfl

/-- The range law, part by part. -/
structure State.PartsInRange (s : State) : Prop where
  limits  : LimitsLaw s.limits
  weather : WeatherLaw s.weather
  time    : s.sup.plantTime ≤ 86399999
  sweep   : s.sweep.InRange
  port    : PortInRange s.link.cursor s.link.queue s.link.fullList
  notices : s.notices.InRange
  count   : s.exc.count ≤ 65535
  zones   : ∀ z, (s.zone z).InRange
  records : ∀ i, (s.helio i).InRange

theorem Helio.inRange_default : ({} : Helio).InRange := ⟨by decide, by decide, fun _ e => nomatch e⟩

theorem Zone.inRange_default : ({} : Zone).InRange := ⟨by decide, fun _ e => nomatch e⟩

/-- Zones as members of the table. -/
theorem mem_zones (s : State) (z : Zone) : z ∈ s.zones.toList ↔ ∃ n, n < Config.nZone ∧ s.zone n = z := by
  constructor
  · intro m
    obtain ⟨n, inTable, e⟩ := List.getElem_of_mem m
    have inTable : n < Config.nZone := by simpa using inTable
    exact ⟨n, inTable, by simpa [State.zone, inTable] using e⟩
  · rintro ⟨n, inTable, e⟩
    have e : s.zones[n] = z := by simpa [State.zone, inTable] using e
    rw [← e]
    simp

theorem rangeLaw_iff (s : State) : s.RangeLaw ↔ s.PartsInRange := by
  constructor
  · rintro ⟨limits, weather, time, strategy, number, position, cursor, queue, fullList, work, counts, allowance, records⟩
    obtain ⟨count, miss, quiet, seq⟩ := counts
    refine
      { limits := limits, weather := weather, time := time, sweep := ⟨strategy, number, position⟩
        port := ⟨cursor, queue, fullList, fun r m w e first left entries e' => work r m first left entries (e' ▸ e)⟩
        notices := ⟨miss, quiet, seq⟩, count := count, zones := fun z => ?zones, records := fun i => ?records }
    case zones =>
      by_cases inTable : z < Config.nZone
      · exact allowance _ ((mem_zones s _).mpr ⟨z, inTable, rfl⟩)
      · rw [zone_of_ge inTable]
        exact Zone.inRange_default
    case records =>
      by_cases inTable : i < Config.nHelio
      · exact records _ ((mem_helios s _).mpr ⟨i, inTable, rfl⟩)
      · rw [helio_of_ge _ _ inTable]
        exact Helio.inRange_default
  · rintro ⟨limits, weather, time, ⟨strategy, number, position⟩, ⟨cursor, queue, fullList, work⟩, ⟨miss, quiet, seq⟩, count, zones,
      records⟩
    refine ⟨limits, weather, time, strategy, number, position, cursor, queue, fullList,
      fun r m first left entries e => work r m _ e first left entries rfl, ⟨count, miss, quiet, seq⟩, fun z m => ?_, fun h m => ?_⟩
    · obtain ⟨n, -, rfl⟩ := (mem_zones s z).mp m
      exact zones n
    · obtain ⟨i, -, rfl⟩ := (mem_helios s h).mp m
      exact records i

/-! ## Targets within travel -/

/-- A class whose stow position lies in its travel has a travel. -/
theorem travel_nonempty {c : DriveClass} (ok : (stowTarget c).inTravel c) : c.azMin ≤ c.azMax ∧ c.elMin ≤ c.elMax :=
  ⟨ok.1.1.trans ok.1.2, ok.2.1.trans ok.2.2⟩

theorem clampTo_inTravel {c : DriveClass} (ok : (stowTarget c).inTravel c) (t : Target) : (t.clampTo c).inTravel c :=
  ⟨clampInt_mem _ (travel_nonempty ok).1, clampInt_mem _ (travel_nonempty ok).2⟩

theorem defocusTarget_inTravel {c : DriveClass} (ok : (stowTarget c).inTravel c) (h : Helio) : (defocusTarget c h).inTravel c := by
  obtain ⟨az, el⟩ := travel_nonempty ok
  unfold defocusTarget
  split
  · exact ok
  · dsimp only
    refine ⟨clampInt_mem _ az, ?_⟩
    dsimp only
    split <;> exact clampInt_mem _ el

/-- What is found among several counts is one of them (R17). -/
theorem nearestOf_mem {cur a : Int} : ∀ {xs : List Int}, nearestOf cur xs = some a → a ∈ xs := by
  intro xs
  induction xs with
  | nil => intro e; cases e
  | cons x rest ih =>
    intro e
    unfold nearestOf at e
    split at e
    · cases e
      exact .head _
    · rename_i b found
      split at e
      · cases e
        exact .head _
      · cases e
        exact .tail _ (ih found)

/-- The candidate that needs the least clamping has been clamped (R18). -/
theorem leastClamped_inside {c : DriveClass} (ok : c.azMin ≤ c.azMax) {cur : Int} {p : Int × Int} :
    ∀ {xs : List Int}, leastClamped c cur xs = some p → c.azMin ≤ p.2 ∧ p.2 ≤ c.azMax := by
  intro xs
  induction xs generalizing p with
  | nil => intro e; cases e
  | cons x rest ih =>
    intro e
    unfold leastClamped at e
    dsimp only at e
    split at e
    · cases e
      exact clampInt_mem _ ok
    · rename_i found
      split at e
      · cases e
        exact clampInt_mem _ ok
      · cases e
        exact ih found

theorem azimuthCount_inside {c : DriveClass} (ok : c.azMin ≤ c.azMax) {h : Helio} {standby : Bool} {azc a : Int}
    (e : azimuthCount c h standby azc = some a) : c.azMin ≤ a ∧ a ≤ c.azMax := by
  unfold azimuthCount at e
  dsimp only at e
  split at e
  · rename_i found
    cases e
    have inside := (List.mem_filter.mp (nearestOf_mem found)).2
    simpa [insideAz] using inside
  · split at e
    · obtain ⟨p, least, rfl⟩ := Option.map_eq_some_iff.mp e
      exact leastClamped_inside ok least
    · cases e

/-- The counts of a computed target lie in the travel (R16 to R18). -/
theorem normalCounts_inside {c : DriveClass} (az : c.azMin ≤ c.azMax) (el : c.elMin ≤ c.elMax) {h : Helio} {standby : Bool}
    {n : Normal} {p : Int × Int} (e : normalCounts c h standby n = some p) :
    (c.azMin ≤ p.1 ∧ p.1 ≤ c.azMax) ∧ (c.elMin ≤ p.2 ∧ p.2 ≤ c.elMax) := by
  unfold normalCounts at e
  cases n with
  | vertical el' =>
    dsimp only at e
    split at e
    · cases e
    · cases e
      exact ⟨clampInt_mem _ az, clampInt_mem _ el⟩
  | angles az' el' =>
    dsimp only at e
    split at e
    · cases e
    · obtain ⟨a, counted, rfl⟩ := Option.map_eq_some_iff.mp e
      exact ⟨azimuthCount_inside az counted, clampInt_mem _ el⟩

/-- A computed target lies in the travel (R19, R20). -/
theorem aimAt_inTravel {c : DriveClass} (ok : (stowTarget c).inTravel c) {standby : Bool} {sun : SnapSun} {h : Helio} {a : Point}
    {t : Target} {cosq : Nat} (e : aimAt standby sun c h a = .ok (t, cosq)) : t.inTravel c := by
  obtain ⟨az, el⟩ := travel_nonempty ok
  unfold aimAt at e
  split at e
  · cases e
  · split at e
    · cases e
    · rename_i counted
      cases e
      exact normalCounts_inside az el counted

/-! ## How a record may evolve -/

/-- Record g is what an operation other than a load may make of record h of class c: static fields and occupancy stay, targets stay in
travel and counts in range. -/
structure Helio.Evolves (c : DriveClass) (h g : Helio) : Prop where
  static : g.static = h.static
  vacant : g.st = .vacant ↔ h.st = .vacant
  travel : (stowTarget c).inTravel c → h.InTravel c → g.InTravel c
  range  : h.InRange → g.InRange

/-- A LEAVING record stays LEAVING with its reservations as they are (R81). -/
def Helio.StaysLeaving (h g : Helio) : Prop :=
  h.st = .leaving → g.st = .leaving ∧ g.primary = h.primary ∧ g.transfer = h.transfer

theorem Helio.StaysLeaving.refl (h : Helio) : h.StaysLeaving h := fun leaving => ⟨leaving, rfl, rfl⟩

theorem Helio.StaysLeaving.trans {a b c : Helio} (ab : a.StaysLeaving b) (bc : b.StaysLeaving c) : a.StaysLeaving c := by
  intro leaving
  obtain ⟨st, primary, transfer⟩ := ab leaving
  obtain ⟨st', primary', transfer'⟩ := bc st
  exact ⟨st', primary'.trans primary, transfer'.trans transfer⟩

theorem Helio.StaysLeaving.of_ne {h g : Helio} (ne : h.st ≠ .leaving) : h.StaysLeaving g := fun leaving => absurd leaving ne

theorem Helio.static_cls {h g : Helio} (e : g.static = h.static) : g.cls = h.cls := by
  simp only [Helio.static, Prod.mk.injEq] at e
  exact e.2.2.1

theorem Helio.static_place {h g : Helio} (e : g.static = h.static) : g.line = h.line ∧ g.addr = h.addr := by
  simp only [Helio.static, Prod.mk.injEq] at e
  exact ⟨e.1, e.2.1⟩

namespace Helio.Evolves
variable {c : DriveClass} (h : Helio)

theorem refl : h.Evolves c h := ⟨rfl, Iff.rfl, fun _ => id, id⟩

variable {h}

theorem trans {g k : Helio} (hg : h.Evolves c g) (gk : g.Evolves c k) : h.Evolves c k where
  static := gk.static.trans hg.static
  vacant := gk.vacant.trans hg.vacant
  travel ok inTravel := gk.travel ok (hg.travel ok inTravel)
  range := gk.range ∘ hg.range

theorem post (d : Nat) {t : Target} (inTravel : (stowTarget c).inTravel c → t.inTravel c) : h.Evolves c (h.post d t) := by
  obtain unposted | posted := post_eq_or d t h
  · rw [unposted]
    exact .refl h
  · rw [posted]
    exact ⟨rfl, Iff.rfl, fun ok old => ⟨old.1, fun t' e => by cases e; exact inTravel ok⟩, id⟩

theorem recordExc (k : ExcKind) (masked : Bool) : h.Evolves c (h.recordExc k masked) := ⟨rfl, Iff.rfl, fun _ => id, id⟩

/-- A change of state between states that are not VACANT. -/
theorem toState {st : HState} (before : h.st ≠ .vacant) (after : st ≠ .vacant) : h.Evolves c (h.toState st) := by
  rw [toState_eq]
  refine ⟨rfl, ⟨fun e => absurd e after, fun e => absurd e before⟩, fun _ => id, ?_⟩
  rintro ⟨misses, lag, fault⟩
  refine ⟨misses, ?_, fault⟩
  dsimp only
  split
  · exact lag
  · exact Nat.zero_le _

/-- Reservations are no part of what the laws of this part read. -/
theorem claims (primary transfer : Option Reservation) : h.Evolves c { h with primary := primary, transfer := transfer } :=
  ⟨rfl, Iff.rfl, fun _ => id, id⟩

theorem unlatched : h.Evolves c { h with latched := false } := ⟨rfl, Iff.rfl, fun _ => id, id⟩

/-- A miss counted, LOST or not (R121). -/
theorem missed (lost : Bool) (misses : Nat) : h.Evolves c { h with misses := min 15 misses, lost := lost } :=
  ⟨rfl, Iff.rfl, fun _ => id, fun ⟨_, lag, fault⟩ => ⟨min_le_left .., lag, fault⟩⟩

theorem deliver (t : Target) : h.Evolves c (h.deliver c t) := by
  refine ⟨rfl, Iff.rfl, fun ok old => ⟨fun t' e => ?_, fun t' e => ?_⟩, id⟩
  · cases e
    exact clampTo_inTravel ok t
  · unfold Helio.deliver at e
    dsimp only at e
    split at e
    · cases e
    · exact old.2 t' e

theorem heard {r : ReplyFields} (fault : r.fault ≤ 4) : h.Evolves c (h.heard r) :=
  ⟨rfl, Iff.rfl, fun _ => id, fun ⟨_, lag, _⟩ => ⟨Nat.zero_le _, lag, fun p e => by cases e; exact fault⟩⟩

theorem taken {r : ReplyFields} (fault : r.fault ≤ 4) (move : Option Target) : h.Evolves c (h.taken c move r) := by
  unfold Helio.taken
  split
  · split
    · exact (heard fault).trans (.deliver _)
    · exact heard fault
  · exact heard fault

theorem faultLocal (r : ReplyFields) {lag : Nat} (inRange : h.InRange → lag ≤ 255) :
    h.Evolves c ({ h with lag := lag }.faultLocal r) :=
  ⟨rfl, Iff.rfl, fun _ => id, fun old => ⟨old.1, inRange old, old.2.2⟩⟩

/-- A record at HALT keeps its urgent target alone (R153). -/
theorem halted : h.Evolves c h.halted := by
  have dropped (g : Helio) (same : g.pendingT = h.pendingT) :
      g.Evolves c { g with pendingT := h.pendingT.filter fun t => t.kind.urgent } :=
    ⟨rfl, Iff.rfl, fun _ old => ⟨old.1, fun t e => old.2 t (same ▸ Option.eq_some_of_filter_eq_some e)⟩, id⟩
  unfold Helio.halted
  dsimp only
  split
  · rename_i clear
    exact .trans (.toState (by rw [clear]; decide) (by decide)) (dropped _ (toState_pendingT ..))
  · exact dropped h rfl

end Helio.Evolves

/-- The lag count stays in its range (R126, R127). -/
theorem lagAfter_le {c : DriveClass} {r : Reported} {h : Helio} (inRange : h.lag ≤ 255) : (h.lagAfter c r).1 ≤ 255 := by
  have up : min 255 (h.lag + 1) ≤ 255 := min_le_left ..
  unfold Helio.lagAfter
  dsimp only
  split
  case h_1 | h_2 => exact up
  case h_3 =>
    have either (settled : Prop) [Decidable settled] {x y : Nat × Bool} (zero : x.1 ≤ 255) (up : y.1 ≤ 255) :
        (if settled then x else y).1 ≤ 255 := by
      split
      · exact zero
      · exact up
    exact either _ (Nat.zero_le _) up
  all_goals exact inRange

namespace Helio.StaysLeaving
variable (h : Helio)

theorem post (d : Nat) (t : Target) : h.StaysLeaving (h.post d t) := by
  rw [post_eq]
  exact fun leaving => ⟨leaving, rfl, rfl⟩

theorem halted : h.StaysLeaving h.halted := by
  intro leaving
  simp [Helio.halted, leaving]

theorem taken (c : DriveClass) (move : Option Target) (r : ReplyFields) : h.StaysLeaving (h.taken c move r) := by
  unfold Helio.taken
  split
  · split <;> exact fun leaving => ⟨leaving, rfl, rfl⟩
  · exact fun leaving => ⟨leaving, rfl, rfl⟩

/-- A record that is no holder before a change to LEAVING stays as it is. -/
theorem of_same {g : Helio} (st : g.st = h.st) (primary : g.primary = h.primary) (transfer : g.transfer = h.transfer) :
    h.StaysLeaving g := fun leaving => ⟨st.trans leaving, primary, transfer⟩

end Helio.StaysLeaving

end Sys2Proof.Machine
end

section
/-! The laws of a run, second part: what an operation may do to a state, as a relation that operations in sequence share, and the operations
on one record, zone, entry, line or register. -/

namespace Sys2Proof.Machine

/-! ## The relations -/

/-- ALERT is the level that flags and masks give (R171). -/
def Exc.Agrees (e : Exc) : Prop := e.alert = alertLevel e.flags e.masks

/-- Entry f is what an operation other than a load may make of entry e: span and strategy stay, and it does not become ENABLED. -/
def AimEntry.Evolves (e f : AimEntry) : Prop :=
  (f.base, f.size, f.shared, f.strategy) = (e.base, e.size, e.shared, e.strategy) ∧ (f.st = .enabled → e.st = .enabled)

/-- From s to t every law is kept. -/
structure State.KeepsLaws (s t : State) : Prop where
  alert   : s.exc.Agrees → t.exc.Agrees
  entries : s.EntriesApart → t.EntriesApart
  places  : s.PlacesDistinct → t.PlacesDistinct
  modes   : s.ModesAgree → t.ModesAgree
  travel  : s.TargetsInTravel → t.TargetsInTravel
  range   : s.PartsInRange → t.PartsInRange

/-- From s to t nothing changes that a request sets (O60), every part evolves as the laws ask, and
the commands that wait stay (O3). -/
structure State.Evolves (s t : State) : Prop where
  classes  : t.classes = s.classes
  standbys : t.standbys = s.standbys
  limits   : t.limits = s.limits
  masks    : t.exc.masks = s.exc.masks
  time     : t.sup.plantTime = s.sup.plantTime
  sun      : t.sup.sun = s.sup.sun ∧ t.sup.sunPresent = s.sup.sunPresent
  records  : ∀ i, (s.helio i).Evolves (s.classOf i) (t.helio i)
  entries  : ∀ k, (s.entry k).Evolves (t.entry k)
  zones    : ∀ z, (s.zone z).InRange → (t.zone z).InRange
  alert    : s.exc.Agrees → t.exc.Agrees
  count    : s.exc.count ≤ 65535 → t.exc.count ≤ 65535
  modes    : s.ModesAgree → t.ModesAgree
  sweep    : s.sweep.InRange → t.sweep.InRange
  weather  : LimitsLaw s.limits → WeatherLaw s.weather → WeatherLaw t.weather
  port     : PortInRange s.link.cursor s.link.queue s.link.fullList → PortInRange t.link.cursor t.link.queue t.link.fullList
  notices  : s.notices.InRange → t.notices.InRange
  waiting  : t.pending = s.pending

/-- From s to t the state evolves, and every LEAVING record stays so (O58). -/
structure State.Proceeds (s t : State) : Prop extends s.Evolves t where
  leaving : ∀ i, (s.helio i).StaysLeaving (t.helio i)

theorem State.KeepsLaws.refl (s : State) : s.KeepsLaws s := ⟨id, id, id, id, id, id⟩

theorem State.KeepsLaws.trans {s t u : State} (st : s.KeepsLaws t) (tu : t.KeepsLaws u) : s.KeepsLaws u :=
  ⟨tu.alert ∘ st.alert, tu.entries ∘ st.entries, tu.places ∘ st.places, tu.modes ∘ st.modes, tu.travel ∘ st.travel, tu.range ∘ st.range⟩

namespace State.Evolves
variable {s t u : State}

theorem refl (s : State) : s.Evolves s where
  classes := rfl
  standbys := rfl
  limits := rfl
  masks := rfl
  time := rfl
  sun := ⟨rfl, rfl⟩
  records _ := .refl _
  entries _ := ⟨rfl, id⟩
  zones _ := id
  alert := id
  count := id
  modes := id
  sweep := id
  weather _ := id
  port := id
  notices := id
  waiting := rfl

theorem classOf (e : s.Evolves t) (i : Nat) : t.classOf i = s.classOf i := by
  rw [State.classOf, State.classOf, State.driveClass, State.driveClass, e.classes, Helio.static_cls (e.records i).static]

theorem trans (st : s.Evolves t) (tu : t.Evolves u) : s.Evolves u where
  classes := tu.classes.trans st.classes
  standbys := tu.standbys.trans st.standbys
  limits := tu.limits.trans st.limits
  masks := tu.masks.trans st.masks
  time := tu.time.trans st.time
  sun := ⟨tu.sun.1.trans st.sun.1, tu.sun.2.trans st.sun.2⟩
  records i := (st.records i).trans (st.classOf i ▸ tu.records i)
  entries k := ⟨(tu.entries k).1.trans (st.entries k).1, (st.entries k).2 ∘ (tu.entries k).2⟩
  zones z := tu.zones z ∘ st.zones z
  alert := tu.alert ∘ st.alert
  count := tu.count ∘ st.count
  modes := tu.modes ∘ st.modes
  sweep := tu.sweep ∘ st.sweep
  weather limits := tu.weather (st.limits ▸ limits) ∘ st.weather limits
  port := tu.port ∘ st.port
  notices := tu.notices ∘ st.notices
  waiting := tu.waiting.trans st.waiting

theorem static (e : s.Evolves t) (i : Nat) : (t.helio i).static = (s.helio i).static := (e.records i).static

theorem occupied_iff (e : s.Evolves t) (i : Nat) : (t.helio i).st ≠ .vacant ↔ (s.helio i).st ≠ .vacant := not_congr (e.records i).vacant

/-- What evolves keeps every law. -/
theorem keepsLaws (e : s.Evolves t) : s.KeepsLaws t where
  alert := e.alert
  entries law j k ne ej ek := by
    have apart := law j k ne ((e.entries j).2 ej) ((e.entries k).2 ek)
    obtain ⟨shape, -⟩ := e.entries j
    obtain ⟨shape', -⟩ := e.entries k
    simp only [Prod.mk.injEq] at shape shape'
    obtain ⟨base, size, shared, strategy⟩ := shape
    obtain ⟨base', size', shared', strategy'⟩ := shape'
    simp only [AimEntry.Apart, base, size, shared, strategy, base', size', shared', strategy']
    exact apart
  places law i j ne oi oj := by
    rw [(Helio.static_place (e.static i)).1, (Helio.static_place (e.static i)).2, (Helio.static_place (e.static j)).1,
      (Helio.static_place (e.static j)).2]
    exact law i j ne ((e.occupied_iff i).mp oi) ((e.occupied_iff j).mp oj)
  modes := e.modes
  travel law := by
    refine ⟨fun n => ?_, fun i occupied => ?_⟩
    · rw [State.driveClass, e.classes]
      exact law.1 n
    · rw [e.classOf]
      exact (e.records i).travel (law.1 _) (law.2 i ((e.occupied_iff i).mp occupied))
  range law :=
    { limits := e.limits ▸ law.limits
      weather := e.weather law.limits law.weather
      time := e.time ▸ law.time
      sweep := e.sweep law.sweep
      port := e.port law.port
      notices := e.notices law.notices
      count := e.count law.count
      zones := fun z => e.zones z (law.zones z)
      records := fun i => (e.records i).range (law.records i) }

end State.Evolves

namespace State.Proceeds
variable {s t u : State}

theorem refl (s : State) : s.Proceeds s := { State.Evolves.refl s with leaving := fun _ => .refl _ }

theorem trans (st : s.Proceeds t) (tu : t.Proceeds u) : s.Proceeds u :=
  { st.toEvolves.trans tu.toEvolves with leaving := fun i => (st.leaving i).trans (tu.leaving i) }

/-! ## Operations on one part -/

/-- One record written. -/
theorem setHelio {i : Nat} {h : Helio} (evolves : (s.helio i).Evolves (s.classOf i) h) (stays : (s.helio i).StaysLeaving h) :
    s.Proceeds (s.setHelio i h) :=
  { refl s with
    records := fun j => by
      rw [helio_setHelio]
      split
      · rename_i written
        obtain ⟨rfl, -⟩ := written
        exact evolves
      · exact .refl _
    leaving := fun j => by
      rw [helio_setHelio]
      split
      · rename_i written
        obtain ⟨rfl, -⟩ := written
        exact stays
      · exact .refl _ }

theorem setZone {z : Nat} {r : Zone} (inRange : (s.zone z).InRange → r.InRange) : s.Proceeds (s.setZone z r) :=
  { refl s with
    zones := fun y => by
      rw [zone_setZone]
      split
      · rename_i written
        obtain ⟨rfl, -⟩ := written
        exact inRange
      · exact id }

theorem setEntry {k : Nat} {e : AimEntry} (evolves : (s.entry k).Evolves e) : s.Proceeds (s.setEntry k e) :=
  { refl s with
    entries := fun m => by
      rw [entry_setEntry]
      split
      · rename_i written
        obtain ⟨rfl, -⟩ := written
        exact evolves
      · exact ⟨rfl, id⟩ }

/-- Lines that keep their quiet timers running, or stopped. -/
theorem of_lines {ls : Vector Line Config.nLine} (quiet : State.quietLines { s with lines := ls } = s.quietLines) :
    s.Proceeds { s with lines := ls } :=
  { refl s with
    modes := fun law => by
      rw [State.ModesAgree, quiet]
      exact law }

theorem setLine {n : Nat} {l : Line} (quiet : l.quiet.isSome = (s.line n).quiet.isSome) : s.Proceeds (s.setLine n l) := by
  refine of_lines (funext fun m => ?_)
  change ((s.setLine n l).line m).quiet.isSome = (s.line m).quiet.isSome
  rw [line_setLine]
  split
  · rename_i written
    rw [← written.1, quiet]
  · rfl

theorem of_notices {n : Notices} (inRange : s.notices.InRange → n.InRange) : s.Proceeds { s with notices := n } :=
  { refl s with notices := inRange }

/-- The exception unit with its masks, and ALERT the level of its flags. -/
theorem of_exc {e : Exc} {n : Notices} (masks : e.masks = s.exc.masks) (agrees : e.Agrees)
    (count : s.exc.count ≤ 65535 → e.count ≤ 65535) (inRange : s.notices.InRange → n.InRange) :
    s.Proceeds { s with exc := e, notices := n } :=
  { refl s with masks := masks, alert := fun _ => agrees, count := count, notices := inRange }

theorem of_link {l : Link} (port : PortInRange s.link.cursor s.link.queue s.link.fullList → PortInRange l.cursor l.queue l.fullList) :
    s.Proceeds { s with link := l } :=
  { refl s with port := port }

theorem of_weather {w : Weather} (inRange : LimitsLaw s.limits → WeatherLaw s.weather → WeatherLaw w) :
    s.Proceeds { s with weather := w } :=
  { refl s with weather := inRange }

theorem of_sweep {w : Sweep} (modes : s.ModesAgree → State.ModesAgree { s with sweep := w })
    (inRange : s.sweep.InRange → w.InRange) : s.Proceeds { s with sweep := w } :=
  { refl s with modes := modes, sweep := inRange }

end State.Proceeds

end Sys2Proof.Machine
end

section
/-! The laws of a run, third part: the shared operations, each as a step that keeps what the laws say. -/

namespace Sys2Proof.Machine

namespace State.Proceeds
variable {s t : State}

/-! ## Registers -/

/-- The supervisor's registers that no law reads, grant, silence timer, last sun and defocus pass among them. -/
theorem of_sup {u : Sup} (time : u.plantTime = s.sup.plantTime) (sun : u.sun = s.sup.sun ∧ u.sunPresent = s.sup.sunPresent)
    (mode : u.mode = s.sup.mode) (stowPass : u.stowPass = s.sup.stowPass) : s.Proceeds { s with sup := u } :=
  { refl s with
    time := time
    sun := sun
    modes := fun law => by
      change ModeAgrees u.mode u.sunPresent u.stowPass s.sweep s.quietLines
      rw [mode, sun.2, stowPass]
      exact law }

theorem of_port {l : Link} {n : Notices}
    (port : PortInRange s.link.cursor s.link.queue s.link.fullList → PortInRange l.cursor l.queue l.fullList)
    (inRange : s.notices.InRange → n.InRange) : s.Proceeds { s with link := l, notices := n } :=
  { refl s with port := port, notices := inRange }

theorem of_drained (d : List Nat) : s.Proceeds { s with drained := d } := { refl s with }

end State.Proceeds

/-! ## The port -/

theorem Notices.InRange.raise {n : Notices} (src : NoticeSrc) (inRange : n.InRange) : (n.raise src).InRange := by
  unfold Notices.raise
  split <;> exact inRange

theorem Notices.InRange.raiseMiss {n : Notices} (info : MissInfo) (inRange : n.InRange) : (n.raiseMiss info).InRange := by
  unfold Notices.raiseMiss
  split
  · exact ⟨min_le_left .., inRange.2⟩
  · exact ⟨(by decide : 1 ≤ 65535), (inRange.raise .miss).2⟩

theorem Notices.InRange.raiseQuiet {n : Notices} (i : Nat) (inRange : n.InRange) : (n.raiseQuiet i).InRange := by
  unfold Notices.raiseQuiet
  split
  · exact ⟨inRange.1, min_le_left .., inRange.2.2⟩
  · exact ⟨(inRange.raise .quiet).1, (by decide : 1 ≤ 65535), (inRange.raise .quiet).2.2⟩

/-- Marking a request as carried out changes no work. -/
theorem mem_markDone {r : Req} : ∀ {q : List Req}, r ∈ markDone q → ∃ r' ∈ q, r'.work = r.work := by
  intro q
  induction q with
  | nil => intro m; cases m
  | cons x rest ih =>
    intro m
    unfold markDone at m
    split at m
    · obtain rfl | m := List.mem_cons.mp m
      · exact ⟨_, .head _, rfl⟩
      · obtain ⟨r', old, work⟩ := ih m
        exact ⟨r', .tail _ old, work⟩
    · obtain rfl | m := List.mem_cons.mp m
      · exact ⟨_, .head _, rfl⟩
      · exact ⟨r, .tail _ m, rfl⟩

theorem markDone_length : ∀ q : List Req, (markDone q).length = q.length := by
  intro q
  induction q with
  | nil => rfl
  | cons x rest ih =>
    unfold markDone
    split <;> simp [ih]

/-- Giving a request its work changes no other work. -/
theorem mem_markWork {w : Option Work} {r : Req} : ∀ {q : List Req}, r ∈ markWork w q → r.work = w ∨ ∃ r' ∈ q, r'.work = r.work := by
  intro q
  induction q with
  | nil => intro m; cases m
  | cons x rest ih =>
    intro m
    unfold markWork at m
    split at m
    · obtain rfl | m := List.mem_cons.mp m
      · exact .inr ⟨_, .head _, rfl⟩
      · obtain work | ⟨r', old, work⟩ := ih m
        · exact .inl work
        · exact .inr ⟨r', .tail _ old, work⟩
    · obtain rfl | m := List.mem_cons.mp m
      · exact .inl rfl
      · exact .inr ⟨r, .tail _ m, rfl⟩

section Port
variable {cursor : Nat} {q : List Req} {fullList : List (Byte × Byte)}

theorem PortInRange.markDone (port : PortInRange cursor q fullList) : PortInRange cursor (markDone q) fullList := by
  obtain ⟨inTable, places, places', works⟩ := port
  refine ⟨inTable, by rwa [markDone_length], places', fun r m w e => ?_⟩
  obtain ⟨r', old, work⟩ := mem_markDone m
  exact works r' old w (work.trans e)

theorem PortInRange.markWork {w : Option Work} (left : ∀ v, w = some v → v.InRange) (port : PortInRange cursor q fullList) :
    PortInRange cursor (markWork w q) fullList := by
  obtain ⟨inTable, places, places', works⟩ := port
  refine ⟨inTable, by rwa [markWork_length], places', fun r m v e => ?_⟩
  obtain work | ⟨r', old, work⟩ := mem_markWork m
  · exact left v (work ▸ e)
  · exact works r' old v (work.trans e)

/-- A request received has no work left. -/
theorem PortInRange.received (kind tag : Byte) (payload : List Byte) (room : q.length < 4) (port : PortInRange cursor q fullList) :
    PortInRange cursor (q ++ [{ kind := kind, tag := tag, payload := payload }]) fullList := by
  obtain ⟨inTable, places, places', works⟩ := port
  refine ⟨inTable, by simpa using room, places', fun r m v e => ?_⟩
  obtain m | m := List.mem_append.mp m
  · exact works r m v e
  · rw [List.mem_singleton.mp m] at e
    cases e

theorem PortInRange.tail (port : PortInRange cursor q fullList) : PortInRange cursor q.tail fullList := by
  obtain ⟨inTable, places, places', works⟩ := port
  exact ⟨inTable, by rw [List.length_tail]; omega, places', fun r m => works r (List.mem_of_mem_tail m)⟩

/-- The work of the request being carried out is in range. -/
theorem work_inRange {s : State} {r : Req} {w : Work} (next : s.nextRequest = some r) (left : r.work = some w)
    (port : PortInRange s.link.cursor s.link.queue s.link.fullList) : w.InRange := by
  unfold State.nextRequest at next
  split at next
  · cases next
  · exact port.2.2.2 r (List.mem_of_find?_eq_some next) w left

end Port

namespace State.Proceeds
variable {s t : State}

theorem arbiter (s : State) : s.Proceeds (Machine.arbiter s) := by
  unfold Machine.arbiter
  split
  · exact .refl s
  · split
    · exact of_link id
    · split
      · exact .refl s
      · exact of_port id fun ⟨miss, quiet, _⟩ => ⟨miss, quiet, Nat.le_of_lt_succ (Nat.mod_lt _ (by decide))⟩

theorem replyTo (r : Req) (segments : List (List Byte)) (isRestart : Bool) (s : State) :
    s.Proceeds (Machine.replyTo r segments isRestart s) :=
  of_link .markDone

theorem setWork {w : Option Work} (left : ∀ v, w = some v → v.InRange) : s.Proceeds (s.setWork w) := of_link (.markWork left)

/-! ## Notices and exceptions -/

theorem notice (src : NoticeSrc) (s : State) : s.Proceeds (Machine.notice src s) := of_notices (.raise src)

theorem setExc {e : Exc} (masks : e.masks = s.exc.masks) (count : s.exc.count ≤ 65535 → e.count ≤ 65535) :
    s.Proceeds (Machine.setExc e s) := by
  obtain ⟨n, written, kept | raised⟩ := setExc_eq e s
  · rw [written, kept]
    exact of_exc masks rfl count id
  · rw [written, raised]
    exact of_exc masks rfl count (.raise .alert)

/-- The count of unmasked occurrences stops at 65,535 (R169). -/
theorem record_count (e : Exc) (k : ExcKind) (now : Nat) (i z c : Option Nat) :
    e.count ≤ 65535 → (e.record k now i z c).count ≤ 65535 := by
  intro inRange
  unfold Exc.record
  dsimp only
  split
  · exact inRange
  · exact min_le_left ..

theorem raiseField (k : ExcKind) (s : State) : s.Proceeds (Machine.raiseField k s) :=
  setExc (record_flags ..).2 (record_count _ k _ _ _ _)

theorem raiseHelio (k : ExcKind) (i : Nat) (z c : Option Nat) (s : State) : s.Proceeds (Machine.raiseHelio k i z c s) := by
  have recorded : s.Proceeds (s.setHelio i ((s.helio i).recordExc k (s.exc.masked k))) :=
    setHelio (.recordExc ..) (.of_same _ rfl rfl rfl)
  exact recorded.trans (setExc (record_flags ..).2 (record_count _ k _ _ _ _))

theorem raiseWhen (b : Bool) (k : ExcKind) (i : Nat) (z c : Option Nat) (s : State) :
    s.Proceeds (Machine.raiseWhen b k i z c s) := by
  unfold Machine.raiseWhen
  split
  · exact .raiseHelio ..
  · exact .refl s

theorem raiseAt (k : ExcKind) (i slot : Nat) (s : State) : s.Proceeds (Machine.raiseAt k i slot s) := .raiseHelio ..

theorem raiseMiss (i : Nat) (s : State) : s.Proceeds (Machine.raiseMiss i s) :=
  (raiseHelio .aimMiss i none none s).trans (of_notices (.raiseMiss _))

theorem quietNotice (changed : Bool) (i : Nat) (s : State) : s.Proceeds (Machine.quietNotice changed i s) := by
  unfold Machine.quietNotice
  split
  · exact of_notices (.raiseQuiet i)
  · exact .refl s

theorem triggerDefocus (s : State) : s.Proceeds (Machine.triggerDefocus s) := of_sup rfl ⟨rfl, rfl⟩ rfl rfl

theorem restartSilence (s : State) : s.Proceeds (Machine.restartSilence s) := of_sup rfl ⟨rfl, rfl⟩ rfl rfl

theorem composePermit (before excepted : Bool) (s : State) : s.Proceeds (Machine.composePermit before excepted s) := by
  unfold Machine.composePermit
  split
  · exact .refl s
  · split
    · split
      · exact ((notice .mode s).trans (.raiseField ..)).trans (.triggerDefocus _)
      · exact (notice .mode s).trans (.triggerDefocus _)
    · exact .notice ..

theorem setGrant (v excepted : Bool) (s : State) : s.Proceeds (Machine.setGrant v excepted s) :=
  (of_sup rfl ⟨rfl, rfl⟩ rfl rfl : s.Proceeds { s with sup := { s.sup with grant := v } }).trans (.composePermit ..)

/-! ## Records, zones and slots -/

/-- A target in travel is offered (R33). -/
theorem offer {i : Nat} {t : Target} (inTravel : (stowTarget (s.classOf i)).inTravel (s.classOf i) → t.inTravel (s.classOf i)) :
    s.Proceeds (Machine.offer i t s) := by
  unfold Machine.offer
  split
  · exact setHelio (.post _ inTravel) (.post _ _ _)
  · exact .refl s

theorem offerStow (i : Nat) (s : State) : s.Proceeds (Machine.offer i (stowTarget (s.classOf i)) s) := .offer id

theorem offerDefocus (i : Nat) (s : State) : s.Proceeds (Machine.offer i (defocusTarget (s.classOf i) (s.helio i)) s) :=
  .offer fun ok => defocusTarget_inTravel ok _

theorem decUser (k : Nat) (s : State) : s.Proceeds (Machine.decUser k s) := by
  have freed : (s.entry k).Evolves { s.entry k with users := 0, st := .free } := ⟨rfl, fun e => nomatch e⟩
  unfold Machine.decUser
  dsimp only
  split
  · exact ((setEntry freed).trans (of_drained _)).trans (.notice ..)
  · exact setEntry ⟨rfl, id⟩

theorem incUser (k : Nat) (s : State) : s.Proceeds (Machine.incUser k s) := setEntry ⟨rfl, id⟩

/-- The sums of a zone are no part of what the laws of this part read. -/
theorem setSums (z committed leaving : Nat) (s : State) :
    s.Proceeds (s.setZone z { s.zone z with committed := committed, leaving := leaving }) := setZone fun inRange => inRange

theorem addLeaving (r : Option Reservation) (s : State) : s.Proceeds (Machine.addLeaving r s) := by
  unfold Machine.addLeaving
  split
  · exact .refl s
  · exact setZone id

theorem enterLeaving (i : Nat) (s : State) : s.Proceeds (Machine.enterLeaving i s) := by
  unfold Machine.enterLeaving
  dsimp only
  split
  case isTrue holder =>
    have holds : (s.helio i).st ≠ .vacant ∧ (s.helio i).st ≠ .leaving := by
      constructor <;> intro e <;> simp [Helio.holder, e] at holder
    exact ((setHelio (.toState holds.1 (by decide)) (.of_ne holds.2)).trans (.addLeaving ..)).trans (.addLeaving ..)
  case isFalse => exact .refl s

theorem releaseSums (fromLeaving : Bool) (r : Option Reservation) (s : State) :
    s.Proceeds (Machine.releaseSums fromLeaving r s) := by
  unfold Machine.releaseSums
  split
  · exact .refl s
  · rename_i r
    exact (setSums r.zone _ _ s).trans (.decUser ..)

theorem promote {i : Nat} (retarget : (s.helio i).st = .retarget) : s.Proceeds (Machine.promote i s) := by
  have occupied : (s.helio i).st ≠ .vacant := by simp [retarget]
  have other : (s.helio i).st ≠ .leaving := by simp [retarget]
  exact (setHelio (.trans (.claims (s.helio i).transfer none) (.toState occupied (by decide : HState.onTarget ≠ .vacant))) (.of_ne other)).trans
    (.releaseSums ..)

theorem admitPrimary {i : Nat} (r : Reservation) (clear : (s.helio i).st = .clear) : s.Proceeds (Machine.admitPrimary i r s) := by
  have occupied : (s.helio i).st ≠ .vacant := by simp [clear]
  have other : (s.helio i).st ≠ .leaving := by simp [clear]
  exact ((setHelio (.trans (.claims (some r) (s.helio i).transfer) (.toState occupied (by decide : HState.approach ≠ .vacant)))
    (.of_ne other)).trans (.setSums ..)).trans (.incUser ..)

theorem ne_of_calls {h : Helio} (calls : h.st.calls = .onTarget ∨ h.st.calls = .retarget) : h.st ≠ .vacant ∧ h.st ≠ .leaving := by
  constructor <;> intro e <;> simp [HState.calls, e] at calls

theorem admitTransfer {i : Nat} (r : Reservation) (calls : (s.helio i).st.calls = .onTarget) :
    s.Proceeds (Machine.admitTransfer i r s) := by
  obtain ⟨occupied, other⟩ := ne_of_calls (.inl calls)
  exact ((setHelio (.trans (.claims (s.helio i).primary (some r)) (.toState occupied (by decide : HState.retarget ≠ .vacant)))
    (.of_ne other)).trans (.setSums ..)).trans (.incUser ..)

theorem reprice (zone a c : Nat) (s : State) : s.Proceeds (Machine.reprice zone a c s) := setZone id

theorem refreshPrimary {i : Nat} (c : Nat) (other : (s.helio i).st ≠ .leaving) : s.Proceeds (Machine.refreshPrimary i c s) := by
  unfold Machine.refreshPrimary
  split
  · exact .refl s
  · exact (setHelio (.claims _ (s.helio i).transfer) (.of_ne other)).trans (.reprice ..)

theorem refreshTransfer {i : Nat} (c : Nat) (other : (s.helio i).st ≠ .leaving) : s.Proceeds (Machine.refreshTransfer i c s) := by
  unfold Machine.refreshTransfer
  split
  · exact .refl s
  · exact (setHelio (.claims (s.helio i).primary _) (.of_ne other)).trans (.reprice ..)

theorem moveSlot {i : Nat} (k : Nat) (other : (s.helio i).st ≠ .leaving) : s.Proceeds (Machine.moveSlot i k s) := by
  unfold Machine.moveSlot
  split
  · exact .refl s
  · exact ((setHelio (.claims _ (s.helio i).transfer) (.of_ne other)).trans (.decUser ..)).trans (.incUser ..)

/-- A record that is IDLE becomes CLEAR (R97, R155). -/
theorem clearIdle (i : Nat) (s : State) : s.Proceeds (s.clearIdle i) := by
  unfold State.clearIdle
  split
  · rename_i idle
    exact setHelio (.toState (by simp [idle]) (by decide)) (.of_ne (by simp [idle]))
  · exact .refl s

end State.Proceeds

end Sys2Proof.Machine
end

section
/-! The laws of a run, fourth part: field modes, sweeps, passes and field lines. -/

namespace Sys2Proof.Machine

/-! ## Field modes -/

/-- A change to a mode other than TRACKING, the sweep timer stopped and start waiting cleared when TRACKING is left (R90, R91). -/
theorem ModeAgrees.moved {mode m : Mode} {sun : Bool} {pass pass' : Option Nat} {w : Sweep} {q q' : Fin Config.nLine → Bool}
    (agrees : ModeAgrees mode sun pass w q) (other : m ≠ .tracking) (passing : pass'.isSome → m = .stowing)
    (quiet : ∀ n, q' n = true ↔ m = .quiet) :
    ModeAgrees m sun pass' (if mode = .tracking then { w with timer := .stopped, startWaiting := false } else w) q' := by
  by_cases tracking : mode = .tracking
  · rw [if_pos tracking]
    exact
      { sun := fun e => absurd e other
        stowPass := passing
        timer := fun e => absurd rfl e
        waiting := fun e => nomatch e
        expired := fun e => nomatch e
        goesOn := fun e => absurd e other
        snapshot := agrees.snapshot
        quiet := quiet }
  · rw [if_neg tracking]
    have stopped : w.timer = .stopped := by
      by_contra runs
      exact tracking (agrees.timer runs)
    exact
      { sun := fun e => absurd e other
        stowPass := passing
        timer := fun runs => absurd stopped runs
        waiting := fun e => absurd (agrees.waiting e).1 tracking
        expired := fun e => nomatch stopped.symm.trans e
        goesOn := fun e => absurd e other
        snapshot := agrees.snapshot
        quiet := quiet }

/-- The lines' quiet timers under a mode other than QUIET, changed to another. -/
theorem ModeAgrees.stillAwake {mode m : Mode} {sun : Bool} {pass : Option Nat} {w : Sweep} {q : Fin Config.nLine → Bool}
    (agrees : ModeAgrees mode sun pass w q) (awake : mode ≠ .quiet) (awake' : m ≠ .quiet) (n : Fin Config.nLine) :
    q n = true ↔ m = .quiet :=
  ⟨fun e => absurd ((agrees.quiet n).mp e) awake, fun e => absurd e awake'⟩

/-- A mode other than STOWING has no stow pass. -/
theorem ModeAgrees.noStowPass {mode : Mode} {sun : Bool} {pass : Option Nat} {w : Sweep} {q : Fin Config.nLine → Bool}
    (agrees : ModeAgrees mode sun pass w q) (other : mode ≠ .stowing) : pass = none := by
  cases pass with
  | none => rfl
  | some p => exact absurd (agrees.stowPass rfl) other

/-- What a sweep start needs of the registers: TRACKING, with a sun record, no stow pass, no start waiting, and no quiet timer. -/
structure StartsSweep (u : Sup) (w : Sweep) (quiet : Fin Config.nLine → Bool) : Prop where
  mode     : u.mode = .tracking
  sun      : u.sunPresent = true
  stowPass : u.stowPass = none
  waiting  : w.startWaiting = false
  quiet    : ∀ n, quiet n = false

/-- Tables mapped: what their entries read as. -/
theorem zone_mapZones {f : Zone → Zone} (empty : f {} = {}) {s t : State} (mapped : t.zones = s.zones.map f) (z : Nat) :
    t.zone z = f (s.zone z) := by
  by_cases inTable : z < Config.nZone
  · simp [State.zone, inTable, mapped]
  · rw [zone_of_ge inTable, zone_of_ge inTable, empty]

theorem line_mapLines {f : Line → Line} {s t : State} (mapped : t.lines = s.lines.map f) (n : Fin Config.nLine) :
    t.line n = f (s.line n) := by
  simp [State.line, mapped]

/-- In TRACKING a line's quiet timer does not run. -/
theorem awake_iff {b : Bool} {m : Mode} (awake : b = false) (mode : m = .tracking) : b = true ↔ m = .quiet := by
  simp [awake, mode]

theorem Zone.InRange.apply {z : Zone} (inRange : z.InRange) : z.apply.InRange := by
  unfold Zone.apply
  split
  · rename_i a pending
    exact ⟨inRange.2 a pending, fun _ e => nomatch e⟩
  · exact inRange

/-- What a sweep start makes of strategies, number and position (R63, R91, R93). -/
theorem Sweep.InRange.started {w : Sweep} (inRange : w.InRange) (sun : Option SnapSun) (dni : Nat) (timer : SweepTimer) :
    Sweep.InRange { w with
      active := w.pendingStrategy.getD w.active, pendingStrategy := none, snapStrategy := w.pendingStrategy.getD w.active
      snapSun := sun, snapDni := dni, number := (w.number + 1) % 4294967296, timer := timer, progress := some 0 } := by
  obtain ⟨⟨active, -, pending⟩, -, -⟩ := inRange
  have chosen : w.pendingStrategy.getD w.active ≤ 15 := by
    cases e : w.pendingStrategy with
    | none => exact active
    | some v => exact pending v e
  exact ⟨⟨chosen, chosen, fun _ e => nomatch e⟩, Nat.mod_lt _ (by decide), fun i e => by cases e; decide⟩

namespace State.Proceeds
variable {s t : State}

/-- Registers of supervisor, engine and notices written. -/
theorem of_registers {u : Sup} {w : Sweep} {n : Notices} (time : u.plantTime = s.sup.plantTime)
    (sun : u.sun = s.sup.sun ∧ u.sunPresent = s.sup.sunPresent) (sweep : s.sweep.InRange → w.InRange)
    (notices : s.notices.InRange → n.InRange)
    (modes : s.ModesAgree → ModeAgrees u.mode u.sunPresent u.stowPass w s.quietLines) :
    s.Proceeds { s with sup := u, sweep := w, notices := n } :=
  { refl s with time := time, sun := sun, sweep := sweep, notices := notices, modes := modes }

theorem sunChanges (old new : SunFlags) (s : State) : s.Proceeds (Machine.sunChanges old new s) := by
  have stale : s.Proceeds (if new.stale && !old.stale then Machine.triggerDefocus (Machine.raiseField .staleSun s) else s) := by
    split
    · exact (raiseField ..).trans (.triggerDefocus _)
    · exact .refl s
  unfold Machine.sunChanges
  dsimp only
  split
  · exact stale.trans (.raiseField ..)
  · exact stale

/-- A sweep starts (R93, R94) in a state whose registers allow it. -/
theorem sweepStart {u : Sup} {w : Sweep} {n : Notices} (time : u.plantTime = s.sup.plantTime)
    (sun : u.sun = s.sup.sun ∧ u.sunPresent = s.sup.sunPresent) (sweep : s.sweep.InRange → w.InRange)
    (notices : s.notices.InRange → n.InRange) (starts : s.ModesAgree → StartsSweep u w s.quietLines) :
    s.Proceeds (Machine.sweepStart { s with sup := u, sweep := w, notices := n }) := by
  unfold Machine.sweepStart
  dsimp only
  refine trans ?_ (.sunChanges ..)
  exact
    { refl s with
      time := time
      sun := sun
      zones := fun z inRange => by
        rw [zone_mapZones (f := Zone.apply) (s := s) rfl rfl]
        exact inRange.apply
      sweep := fun inRange => (sweep inRange).started ..
      notices := notices
      modes := fun law => by
        obtain ⟨mode, sunPresent, stowPass, waiting, quiet⟩ := starts law
        exact
          { sun := fun _ => sunPresent
            stowPass := fun going => by
              change u.stowPass.isSome = true at going
              rw [stowPass] at going
              cases going
            timer := fun _ => mode
            waiting := fun e => nomatch waiting.symm.trans e
            expired := fun e => nomatch e
            goesOn := fun _ => .inl rfl
            snapshot := fun _ => rfl
            quiet := fun m => awake_iff (quiet m) mode } }

/-- TRACKING is entered: a sweep starts, or a start waits (R91). -/
theorem enterTracking {u : Sup} {n : Notices} (time : u.plantTime = s.sup.plantTime)
    (sun : u.sun = s.sup.sun ∧ u.sunPresent = s.sup.sunPresent) (notices : s.notices.InRange → n.InRange)
    (present : s.sup.sunPresent = true) (from_ : s.sup.mode ≠ .tracking ∧ s.sup.mode ≠ .quiet) (mode : u.mode = .tracking)
    (stowPass : s.ModesAgree → u.stowPass = none) :
    s.Proceeds (Machine.enterTracking { s with sup := u, notices := n }) := by
  have awake (law : s.ModesAgree) (m : Fin Config.nLine) : s.quietLines m = false := by
    by_contra e
    exact from_.2 ((law.quiet m).mp (by simpa using e))
  have notWaiting (law : s.ModesAgree) : s.sweep.startWaiting = false := by
    by_contra e
    exact from_.1 (law.waiting (by simpa using e)).1
  obtain ⟨-, starts⟩ | ⟨going, waits⟩ := enterTracking_cases { s with sup := u, notices := n }
  · rw [starts]
    exact sweepStart (w := s.sweep) time sun id notices fun law =>
      ⟨mode, sun.2.trans present, stowPass law, notWaiting law, awake law⟩
  · rw [waits]
    refine of_registers time sun id notices fun law =>
      { sun := fun _ => sun.2.trans present
        stowPass := fun e => by rw [stowPass law] at e; cases e
        timer := fun _ => mode
        waiting := fun _ => ⟨mode, going⟩
        expired := fun _ => rfl
        goesOn := fun _ => .inr rfl
        snapshot := law.snapshot
        quiet := fun m => awake_iff (awake law m) mode }

theorem enterStowing (s : State) : s.Proceeds (Machine.enterStowing s) := by
  rw [enterStowing_eq]
  split
  · rename_i from_
    refine of_registers rfl ⟨rfl, rfl⟩ (fun inRange => ?_) (.raise .mode) fun law =>
      law.moved (by decide : Mode.stowing ≠ .tracking) (fun _ => rfl) (law.stillAwake ?_ (by decide : Mode.stowing ≠ .quiet))
    · split <;> exact inRange
    · obtain e | e := from_ <;> rw [e] <;> decide
  · exact .refl s

theorem stowTest (s : State) : s.Proceeds (Machine.stowTest s) := by
  obtain same | ⟨m, moved, change⟩ := stowTest_cases s
  · rw [same]
    exact .refl s
  · rw [moved]
    refine of_registers (w := s.sweep) rfl ⟨rfl, rfl⟩ id (.raise .mode) fun law => ?_
    have between : m ≠ .tracking ∧ m ≠ .quiet ∧ s.sup.mode ≠ .tracking ∧ s.sup.mode ≠ .quiet
        ∧ (s.sup.stowPass.isSome → m = .stowing) := by
      obtain ⟨rfl, stowing, pass⟩ | ⟨rfl, stowed⟩ := change
      · simp [stowing, pass]
      · simp [stowed]
    obtain ⟨other, awake', from_, awake, passing⟩ := between
    have agrees := law.moved other passing (law.stillAwake awake awake')
    rwa [if_neg from_] at agrees

/-- The stow pass ends (R155, R156). -/
theorem endStowPass (s : State) : s.Proceeds (Machine.endStowPass s) := by
  refine trans ?_ (.stowTest _)
  exact of_registers (w := s.sweep) (n := s.notices) rfl ⟨rfl, rfl⟩ id id fun law =>
    { law with stowPass := fun e => nomatch e }

/-- The mode becomes HALTED (R153). -/
theorem haltMode (from_ : s.sup.mode = .tracking ∨ s.sup.mode = .stowed) : s.Proceeds (setMode .halted s) := by
  have ne : s.sup.mode ≠ .halted ∧ s.sup.mode ≠ .quiet ∧ s.sup.mode ≠ .stowing := by
    obtain e | e := from_ <;> simp [e]
  rw [setMode_ne ne.1]
  refine of_registers rfl ⟨rfl, rfl⟩ (fun inRange => ?_) (.raise .mode) fun law =>
    law.moved (by decide : Mode.halted ≠ .tracking) (fun going => ?_) (law.stillAwake ne.2.1 (by decide : Mode.halted ≠ .quiet))
  · split <;> exact inRange
  · rw [law.noStowPass ne.2.2] at going
    cases going

/-! ## Sweeps -/

theorem passIndex {i : Nat} (going : s.sweep.progress.isSome) : s.Proceeds (Machine.passIndex i s) := by
  obtain ⟨inTable, on⟩ | ⟨-, noStart, ends⟩ | ⟨-, waiting, tracking, starts⟩ := passIndex_cases i s
  · rw [on]
    exact of_sweep (fun law => { law with
        waiting := fun e => ⟨(law.waiting e).1, rfl⟩
        snapshot := fun _ => law.snapshot going })
      fun ⟨strategies, number, _⟩ => ⟨strategies, number, fun j e => by cases e; exact Nat.le_of_lt_succ inTable⟩
  · rw [ends]
    exact of_sweep (fun law => { law with
        waiting := fun e => absurd ⟨e, (law.waiting e).1⟩ noStart
        snapshot := fun e => nomatch e })
      fun ⟨strategies, number, _⟩ => ⟨strategies, number, fun j e => nomatch e⟩
  · rw [starts]
    refine sweepStart (u := s.sup) (n := s.notices) rfl ⟨rfl, rfl⟩ (fun ⟨strategies, number, _⟩ =>
      ⟨strategies, number, fun j e => nomatch e⟩) id fun law =>
      ⟨tracking, law.sun tracking, law.noStowPass (by rw [tracking]; decide), rfl, fun m => ?_⟩
    by_contra e
    exact nomatch tracking.symm.trans ((law.quiet m).mp (by simpa using e))

theorem passPosition (s : State) : s.Proceeds (Machine.passPosition s) := by
  unfold Machine.passPosition
  split
  · exact .refl s
  · rename_i going
    exact passIndex (by rw [going]; rfl)

theorem sweepTimerExpired (tracking : s.sup.mode = .tracking) : s.Proceeds (Machine.sweepTimerExpired s) := by
  unfold Machine.sweepTimerExpired
  split
  · rename_i ended
    refine sweepStart (u := s.sup) (w := s.sweep) (n := s.notices) rfl ⟨rfl, rfl⟩ id id fun law =>
      ⟨tracking, law.sun tracking, law.noStowPass (by rw [tracking]; decide), ?_, fun m => ?_⟩
    · by_contra e
      have going := (law.waiting (by simpa using e)).2
      rw [ended] at going
      cases going
    · by_contra e
      exact nomatch tracking.symm.trans ((law.quiet m).mp (by simpa using e))
  · rename_i going
    refine trans ?_ (.raiseField ..)
    exact of_sweep (fun law => { law with
        timer := fun _ => tracking
        waiting := fun _ => ⟨tracking, by rw [going]; rfl⟩
        expired := fun _ => rfl
        goesOn := fun _ => .inr rfl }) id

/-! ## Passes -/

theorem stowReach (i : Nat) (s : State) : s.Proceeds (Machine.stowReach i s) :=
  ((enterLeaving i s).trans (.clearIdle i _)).trans (.offerStow i _)

theorem stowReach_sup (i : Nat) (s : State) : (Machine.stowReach i s).sup = s.sup := by
  unfold Machine.stowReach
  dsimp only
  rw [offer_sup]
  split
  · exact enterLeaving_sup ..
  · exact enterLeaving_sup ..

/-- The stow pass is under way in STOWING alone, and goes on so (R155). -/
theorem stowPassFrom {p : Nat} (going : s.sup.stowPass.isSome) : s.Proceeds (Machine.stowPassFrom p s) := by
  unfold Machine.stowPassFrom
  split
  · exact .endStowPass s
  · rename_i i _
    dsimp only
    split
    · exact (stowReach i s).trans (.endStowPass _)
    · refine (stowReach i s).trans ?_
      exact of_registers (w := (Machine.stowReach i s).sweep) (n := (Machine.stowReach i s).notices) rfl ⟨rfl, rfl⟩ id id
        fun law => { law with stowPass := fun _ => law.stowPass (by rw [stowReach_sup]; exact going) }

theorem defocusReach (i : Nat) (s : State) : s.Proceeds (Machine.defocusReach i s) := by
  unfold Machine.defocusReach
  split
  · exact (enterLeaving i s).trans (.offerDefocus i _)
  · exact .refl s

theorem setDefocusPass (p : Option Nat) (s : State) : s.Proceeds (Machine.setDefocusPass p s) := of_sup rfl ⟨rfl, rfl⟩ rfl rfl

theorem defocusPassFrom (p : Nat) (s : State) : s.Proceeds (Machine.defocusPassFrom p s) := by
  unfold Machine.defocusPassFrom
  split
  · exact .setDefocusPass ..
  · exact (defocusReach ..).trans (.setDefocusPass ..)

/-! ## Field lines -/

theorem voidPolls (i : Nat) (s : State) : s.Proceeds (Machine.voidPolls i s) := by
  refine of_lines (funext fun n => ?_)
  change ((Machine.voidPolls i s).line n).quiet.isSome = (s.line n).quiet.isSome
  rw [line_voidPolls]

theorem forgetCarried (n a : Nat) (s : State) : s.Proceeds (Machine.forgetCarried n a s) := setLine rfl

theorem startPoll (n a i : Nat) (rr : Option Nat) (s : State) : s.Proceeds (Machine.startPoll n a i rr s) := setLine rfl

theorem choosePoll (n : Nat) (s : State) : s.Proceeds (Machine.choosePoll n s) := by
  obtain ⟨l, chosen, quiet, -⟩ := choosePoll_eq n s
  rw [chosen]
  exact setLine (by rw [quiet])

theorem quietPoll (n : Nat) (s : State) : s.Proceeds (Machine.quietPoll n s) := by
  obtain same | ⟨a, i, rr, starts⟩ := quietPoll_cases n s
  · rw [same]
    exact .refl s
  · rw [starts]
    exact .startPoll ..

theorem endPoll (n : Nat) (s : State) : s.Proceeds (Machine.endPoll n s) :=
  (setLine (l := { s.line n with poll := none }) rfl).trans (.choosePoll ..)

theorem setPhase (n : Nat) (ph : PollPhase) (s : State) : s.Proceeds (Machine.setPhase n ph s) := setLine rfl

theorem silenceEnded (n : Nat) (s : State) : s.Proceeds (Machine.silenceEnded n s) :=
  (setLine (l := { s.line n with silence := none }) rfl).trans (.choosePoll ..)

theorem quietExpired {n : Nat} (quiet : (s.line n).quiet.isSome) : s.Proceeds (Machine.quietExpired n s) :=
  (setLine (by rw [quiet]; rfl)).trans (.quietPoll ..)

theorem chooseAll (ns : List Nat) (s : State) : s.Proceeds (Machine.chooseAll ns s) := by
  induction ns generalizing s with
  | nil => exact .refl s
  | cons n rest ih => exact (choosePoll n s).trans (ih _)

theorem withPoll {n : Nat} {f : Poll → State → State} (each : ∀ p, s.Proceeds (f p s)) : s.Proceeds (Machine.withPoll n f s) := by
  unfold Machine.withPoll
  split
  · exact .refl s
  · exact each _

theorem corrective (i : Nat) (c : Conditions) (s : State) : s.Proceeds (Machine.corrective i c s) := by
  unfold Machine.corrective
  split
  · exact .refl s
  · have raised (z k : Option Nat) := ((raiseWhen c.lost .driveLost i z k s).trans (.raiseWhen c.lag .lag i z k _)).trans
      (.raiseWhen c.fault .driveFault i z k _)
    dsimp only
    split
    · exact ((raised _ _).trans (.enterLeaving i _)).trans (.offerDefocus i _)
    · exact (raised _ _).trans (.enterLeaving i _)

theorem missAccess (i : Nat) (s : State) : s.Proceeds (Machine.missAccess i s) := by
  have counted (lost : Bool) :
      s.Proceeds (s.setHelio i { s.helio i with misses := min 15 ((s.helio i).misses + 1), lost := lost }) :=
    setHelio (.missed ..) (.of_same _ rfl rfl rfl)
  unfold Machine.missAccess
  dsimp only
  split
  · exact (((counted true).trans (.corrective ..)).trans (.quietNotice ..)).trans (.stowTest _)
  · exact counted _

theorem missPoll (n : Nat) (p : Poll) (s : State) : s.Proceeds (Machine.missPoll n p s) := by
  unfold Machine.missPoll
  split
  · exact .endPoll n s
  · exact (missAccess ..).trans (.endPoll ..)

theorem arrivalStep (i : Nat) (r : Reported) (s : State) : s.Proceeds (Machine.arrivalStep i r s) := by
  unfold Machine.arrivalStep
  dsimp only
  split
  · split
    · rename_i approach
      exact setHelio (.toState (by rw [approach]; decide) (by decide)) (.of_ne (by rw [approach]; decide))
    · rename_i retarget
      exact .promote retarget
    all_goals exact .refl s
  · exact .refl s

/-! ## Entry into QUIET, and WAKE -/

/-- Entry into QUIET (R117, R158). -/
theorem quietField (stowed : s.sup.mode = .stowed) : s.Proceeds (Machine.quietField s) := by
  unfold Machine.quietField
  rw [setMode_ne (by rw [stowed]; decide)]
  exact
    { refl s with
      sweep := fun inRange => by split <;> exact inRange
      notices := .raise .mode
      modes := fun law => law.moved (by decide : Mode.quiet ≠ .tracking)
        (fun going => by
          have none_ := law.noStowPass (by rw [stowed]; decide)
          change s.sup.stowPass.isSome = true at going
          rw [none_] at going
          cases going)
        fun n => ⟨fun _ => rfl, fun _ => by
          rw [State.quietLines, line_mapLines (f := fun l => { l with quiet := some (s.limits.quietInterval * 1000) }) (s := s) rfl]
          rfl⟩ }

end State.Proceeds

end Sys2Proof.Machine
end

section
/-! The laws of a run, fifth part: the weather monitor, the receiver, the accesses of requests, and the visit. -/

namespace Sys2Proof.Machine

/-! ## The weather monitor -/

/-- The mean of values up to a bound lies within it (R139). -/
theorem meanFloor_le {xs : List Nat} {b : Nat} (bounded : ∀ v ∈ xs, v ≤ b) : meanFloor xs ≤ b := by
  unfold meanFloor
  have sum : xs.sum ≤ xs.length * b := by simpa using List.sum_le_card_nsmul xs b bounded
  exact Nat.div_le_of_le_mul sum

theorem WeatherLaw.takeEdge {w : Weather} (law : WeatherLaw w) (pulseDistance : Nat) : WeatherLaw (takeEdge pulseDistance w) := by
  have restarted : ∀ count ovf, Chain.timing 0 0 = .timing count ovf → count ≤ 65535 ∧ ovf ≤ 63 := by
    intro count ovf e
    cases e
    decide
  unfold Machine.takeEdge
  split
  · exact { law with chain := restarted }
  · dsimp only
    split
    · exact law
    · exact { law with chain := restarted, speeds := ⟨min_le_left .., law.speeds.2⟩ }

theorem WeatherLaw.takeWrap {w : Weather} (law : WeatherLaw w) : WeatherLaw (takeWrap w) := by
  unfold Machine.takeWrap
  split
  · exact law
  · split
    · exact { law with chain := fun _ _ e => (nomatch e), speeds := ⟨Nat.zero_le _, law.speeds.2⟩ }
    · rename_i few
      refine { law with chain := fun count ovf e => ?_ }
      cases e
      exact ⟨Nat.zero_le _, by omega⟩

/-- A sample: ring and means (R139), and the wind state with its settle count (R140, R141). -/
theorem WeatherLaw.sampled {l : Config.Limits} {w : Weather} (limits : LimitsLaw l) (law : WeatherLaw w) :
    WeatherLaw { appendSample w with wind := (windNext l (appendSample w)).1, settle := (windNext l (appendSample w)).2 } := by
  obtain ⟨chain, ⟨speed, -, -⟩, ⟨length, ring⟩, ⟨settle, settling⟩, dni⟩ := law
  have kept : (if 240 ≤ w.ring.length then w.ring.drop (w.ring.length - 239) else w.ring).length ≤ 239
      ∧ ∀ v ∈ (if 240 ≤ w.ring.length then w.ring.drop (w.ring.length - 239) else w.ring), v ≤ 80000 := by
    split
    · exact ⟨by rw [List.length_drop]; omega, fun v m => ring v (List.mem_of_mem_drop m)⟩
    · exact ⟨by omega, ring⟩
  have bounded : ∀ v ∈ (appendSample w).ring, v ≤ 80000 := by
    intro v m
    obtain m | m := List.mem_append.mp m
    · exact kept.2 v m
    · rw [List.mem_singleton.mp m]
      exact speed
  have counted : (windNext l (appendSample w)).2 ≤ 14400
      ∧ ((windNext l (appendSample w)).1 = .settling → (windNext l (appendSample w)).2 < 14400) := by
    have same : (appendSample w).wind = w.wind ∧ (appendSample w).settle = w.settle := ⟨rfl, rfl⟩
    have hold := limits.resumeHold
    unfold windNext
    rw [same.1, same.2]
    cases wind : w.wind with
    | calm | windy =>
      dsimp only
      split_ifs <;> simp [settle]
    | settling =>
      have below := settling wind
      dsimp only
      split_ifs
      · simp
      · exact ⟨below, fun e => nomatch e⟩
      · rename_i notYet
        exact ⟨below, fun _ => by dsimp only; omega⟩
      · simp
  refine ⟨chain, ⟨speed, meanFloor_le fun v m => bounded v (List.mem_of_mem_drop m), meanFloor_le bounded⟩, ⟨?_, bounded⟩,
    counted, dni⟩
  change (_ ++ [w.speed]).length ≤ 240
  rw [List.length_append, List.length_singleton]
  omega

/-- The wind state of a sample does not read how long ago the last one was (R139). -/
theorem WeatherLaw.reloaded {w : Weather} (law : WeatherLaw w) (us : Nat) : WeatherLaw { w with sampleLeft := us } :=
  ⟨law.chain, law.speeds, law.ring, law.settle, law.dni⟩

theorem WeatherLaw.faulted {l : Config.Limits} {w : Weather} (limits : LimitsLaw l) (law : WeatherLaw w) :
    WeatherLaw { w with conv := .waiting, sensorFault := true, dni := max w.dni l.fallback } :=
  ⟨law.chain, law.speeds, law.ring, law.settle, max_le law.dni.1 limits.fallback, law.dni.2⟩

/-- A reading of at most 1400, and dni_used after it (R144, R145). -/
theorem WeatherLaw.read {w : Weather} (law : WeatherLaw w) (decay : Nat) {r : Nat} (inRange : r ≤ 1400) :
    WeatherLaw { w with conv := .waiting, reading := some r, sensorFault := false, dni := dniAfter decay w.dni r } := by
  refine ⟨law.chain, law.speeds, law.ring, law.settle, ?_, fun v e => by cases e; exact inRange⟩
  change dniAfter decay w.dni r ≤ 1400
  unfold dniAfter
  split
  · exact inRange
  · exact max_le inRange ((Nat.sub_le ..).trans law.dni.1)

namespace State.Proceeds
variable {s t : State}

/-- A change of the weather monitor that its ranges allow whatever the limits. -/
theorem onWeather {f : Weather → Weather} (inRange : WeatherLaw s.weather → WeatherLaw (f s.weather)) :
    s.Proceeds (Machine.onWeather f s) :=
  of_weather fun _ => inRange

theorem takeSample (s : State) : s.Proceeds (Machine.takeSample s) := by
  have sampled : s.Proceeds { s with weather :=
      { appendSample { s.weather with sampleLeft := Config.sampleUs } with
        wind := (windNext s.limits (appendSample { s.weather with sampleLeft := Config.sampleUs })).1
        settle := (windNext s.limits (appendSample { s.weather with sampleLeft := Config.sampleUs })).2 } } :=
    of_weather fun limits law => (law.reloaded _).sampled limits
  unfold Machine.takeSample
  dsimp only
  split
  · exact sampled
  · split
    · exact ((sampled.trans (.notice ..)).trans (.raiseField ..)).trans (.enterStowing _)
    · exact sampled.trans (.notice ..)

theorem sensorFaultCycle (s : State) : s.Proceeds (Machine.sensorFaultCycle s) := by
  have faulted : s.Proceeds { s with weather := { s.weather with
      conv := .waiting, sensorFault := true, dni := max s.weather.dni s.limits.fallback } } :=
    of_weather fun limits law => law.faulted limits
  unfold Machine.sensorFaultCycle
  dsimp only
  split
  · exact faulted
  · exact faulted.trans (.raiseField ..)

theorem takeCode (code : BitVec 16) (s : State) : s.Proceeds (Machine.takeCode code s) := by
  unfold Machine.takeCode
  split
  · exact .sensorFaultCycle s
  · exact of_weather fun _ law => law.read _ (min_le_left ..)

theorem setFilter (pin : InputPin) (f : Filter) (s : State) : s.Proceeds (s.setFilter pin f) := by
  cases pin <;> exact of_weather fun _ law => ⟨law.chain, law.speeds, law.ring, law.settle, law.dni⟩

theorem filterChange (pin : InputPin) (s : State) : s.Proceeds (Machine.filterChange pin s) := by
  have changed := setFilter pin (s.filter pin).change s
  cases pin with
  | stow =>
    unfold Machine.filterChange stowLineChanged
    dsimp only
    split
    · exact (changed.trans (.raiseField ..)).trans (.enterStowing _)
    · exact changed
  | permit => exact changed.trans (.composePermit ..)

theorem withGrant (v : Bool) (s : State) : s.Proceeds { s with sup := { s.sup with grant := v } } := of_sup rfl ⟨rfl, rfl⟩ rfl rfl

theorem silenceExpired (s : State) : s.Proceeds (Machine.silenceExpired s) := by
  have silent := (raiseField .linkSilent s).trans (.restartSilence _)
  exact (silent.trans (.withGrant false _)).trans (.composePermit ..)

/-! ## The receiver and the transmitter -/

theorem of_rx (rx : Rx) (s : State) : s.Proceeds { s with link := { s.link with rx := rx } } := of_link id

theorem offerFrame (kind tag : Byte) (payload : List Byte) (s : State) : s.Proceeds (Machine.offerFrame kind tag payload s) := by
  unfold Machine.offerFrame
  split
  · exact .refl s
  · split
    · rename_i room
      exact of_link (.received _ _ _ room)
    · split
      · rename_i room
        exact of_link fun ⟨cursor, queue, _, works⟩ => ⟨cursor, queue, by simpa using room, works⟩
      · exact .refl s

theorem takeFrame (frame : List Byte) (s : State) : s.Proceeds (Machine.takeFrame frame s) := by
  unfold Machine.takeFrame
  dsimp only
  split
  · exact ((of_rx .hunting s).trans (.restartSilence _)).trans (.offerFrame ..)
  · exact .of_rx ..

theorem takeByte (b : Byte) (s : State) : s.Proceeds (Machine.takeByte b s) := by
  unfold Machine.takeByte
  split
  · split
    · exact .of_rx ..
    · exact .refl s
  · dsimp only
    split
    · exact .of_rx ..
    · split
      · exact .takeFrame ..
      · exact .of_rx ..

end State.Proceeds

/-! ## The accesses of requests -/

/-- Cursor, queue and FULL list of a state lie in their ranges. -/
def State.PortInRange (s : State) : Prop := Machine.PortInRange s.link.cursor s.link.queue s.link.fullList

/-- An access proceeds, and the work that it leaves is in range. -/
structure State.Serves (s : State) (p : State × Served) : Prop where
  state : s.Proceeds p.1
  left  : s.PortInRange → ∀ w, p.2 = .more w → w.InRange

namespace State.Serves
variable {s : State}

/-- An access that leaves the records and the port as they are, the last of its request. -/
theorem last {t : State} (segments : List (List Byte)) (state : s.Proceeds t) : s.Serves (t, .last segments) :=
  ⟨state, fun _ _ e => nomatch e⟩

theorem more {t : State} {w : Work} (noRead : ∀ first left entries, w ≠ .read first left entries) (state : s.Proceeds t) :
    s.Serves (t, .more w) :=
  ⟨state, fun _ v e => by cases e; exact fun first left entries e => absurd e (noRead first left entries)⟩

theorem endRead {first : Nat} {entries : List (List Byte)} (inTable : s.PortInRange → first + entries.length ≤ 2048) :
    s.Serves (Machine.endRead first entries s) :=
  last _ (.of_link fun port => ⟨inTable port, port.2⟩)

theorem readRecord {first left : Nat} {entries : List (List Byte)}
    (inTable : s.PortInRange → 1 ≤ left ∧ first + entries.length + left ≤ 2048) :
    s.Serves (Machine.readRecord first left entries s) := by
  unfold Machine.readRecord
  dsimp only
  split
  · refine endRead fun port => ?_
    obtain ⟨some_, within_⟩ := inTable port
    rw [List.length_append, List.length_singleton]
    omega
  · refine ⟨.refl s, fun port w e => ?_⟩
    obtain ⟨some_, within_⟩ := inTable port
    cases e
    intro first' left' entries' e
    cases e
    rw [List.length_append, List.length_singleton]
    omega

theorem releaseRecord (i : Nat) (s : State) : s.Serves (Machine.releaseRecord i s) := by
  have unlatched : s.Proceeds (unlatch i s) := .setHelio .unlatched (.of_same _ rfl rfl rfl)
  unfold Machine.releaseRecord
  split
  · exact more (fun _ _ _ e => nomatch e) unlatched
  · exact last _ unlatched

theorem haltFrom {t : State} (i : Nat) (state : s.Proceeds t) : s.Serves (Machine.haltFrom i t) := by
  unfold Machine.haltFrom
  split
  · exact more (fun _ _ _ e => nomatch e) state
  · exact last _ state

theorem haltRecord (i : Nat) (s : State) : s.Serves (Machine.haltRecord i s) := by
  unfold Machine.haltRecord
  split
  · exact haltFrom i (.refl s)
  · exact haltFrom _ (.setHelio .halted (.halted _))

theorem serveWork {w : Work} (inRange : s.PortInRange → w.InRange) : s.Serves (Machine.serveWork w s) := by
  cases w with
  | read first left entries => exact readRecord fun port => inRange port first left entries rfl
  | release i => exact releaseRecord i s
  | halt i => exact haltRecord i s

/-- The request whose access was served has its reply, or work that is in range. -/
theorem serveAccess (r : Req) {p : State × Served} (serves : s.Serves p) : s.Proceeds (Machine.serveAccess r p) := by
  obtain ⟨state, left⟩ := serves
  unfold Machine.serveAccess
  split
  · exact state.trans ((State.Proceeds.setWork (w := none) fun _ e => nomatch e).trans (.replyTo ..))
  · rename_i w more
    exact { state with port := fun law => (state.port law).markWork fun v e => Option.some.inj e ▸ left law w more }

end State.Serves

/-! ## The visit -/

namespace State.Proceeds
variable {s : State} {i : Nat}

theorem offerStandby (i : Nat) (s : State) : s.Proceeds (Machine.offerStandby i s) := by
  unfold Machine.offerStandby
  split
  · exact .refl s
  · split
    · rename_i aimed
      exact .offer fun ok => aimAt_inTravel ok aimed
    · exact .raiseHelio ..

theorem offerOff (i : Nat) (s : State) : s.Proceeds (Machine.offerOff i s) := by
  unfold Machine.offerOff
  split
  · exact .offerDefocus i s
  · split
    · rename_i aimed
      exact .offer fun ok => aimAt_inTravel ok aimed
    · exact (raiseHelio ..).trans (.offerDefocus i _)

theorem sendOff (i : Nat) (s : State) : s.Proceeds (Machine.sendOff i s) := (enterLeaving i s).trans (.offerOff i _)

theorem visitOutOfService (i : Nat) (s : State) : s.Proceeds (Machine.visitOutOfService i s) := by
  have sent := enterLeaving i s
  unfold Machine.visitOutOfService
  dsimp only
  split
  · exact sent
  · refine sent.trans (.offer ?_)
    rw [sent.classOf]
    exact id

theorem visitIneligible (i : Nat) (s : State) : s.Proceeds (Machine.visitIneligible i s) := by
  unfold Machine.visitIneligible
  split
  · exact .sendOff i s
  · exact .offerStandby i s

/-- A RECEIVER target computed before the reservation moved is offered after it (R102 to R107). -/
theorem offerReceiver {u : State} {sun : SnapSun} {k cosq : Nat} {t : Target} (aimed : s.receiverFor sun i k = .ok (t, cosq))
    (proceeds : s.Proceeds u) : s.Proceeds (Machine.offer i t u) := by
  refine proceeds.trans (.offer ?_)
  rw [proceeds.classOf]
  exact fun ok => aimAt_inTravel ok aimed

theorem visitClear (sun : SnapSun) (clear : (s.helio i).st = .clear) : s.Proceeds (Machine.visitClear sun i s) := by
  unfold Machine.visitClear
  split
  · exact (raiseMiss ..).trans (.offerStandby ..)
  · exact (raiseAt ..).trans (.offerStandby ..)
  · split
    · exact (raiseAt ..).trans (.offerStandby ..)
    · rename_i aimed
      dsimp only
      split
      · exact offerReceiver aimed (.admitPrimary _ clear)
      · exact (raiseAt ..).trans (.offerStandby ..)

theorem stayAt (sun : SnapSun) (k : Nat) (held : Reservation) (calls : (s.helio i).st.calls = .onTarget) :
    s.Proceeds (Machine.stayAt sun i k held s) := by
  unfold Machine.stayAt
  split
  · exact (raiseAt ..).trans (.sendOff ..)
  · rename_i aimed
    dsimp only
    split
    · exact offerReceiver aimed (.refreshPrimary _ (ne_of_calls (.inl calls)).2)
    · exact (raiseHelio ..).trans (.sendOff ..)

theorem transferTo (sun : SnapSun) (k : Nat) (held : Reservation) (calls : (s.helio i).st.calls = .onTarget) :
    s.Proceeds (Machine.transferTo sun i k held s) := by
  have moved : s.Proceeds (Machine.moveSlot i k s) := .moveSlot k (ne_of_calls (.inl calls)).2
  unfold Machine.transferTo
  split
  · exact (raiseAt ..).trans (.sendOff ..)
  · rename_i cosq aimed
    dsimp only
    split
    · have other : ((Machine.moveSlot i k s).helio i).st ≠ .leaving := by
        rw [moveSlot_st]
        exact (ne_of_calls (.inl calls)).2
      have refreshed := moved.trans (.refreshPrimary (s.contributionOf i cosq) other)
      have kept := (ne_of_calls (.inl calls))
      rw [← moveSlot_st s i k, ← refreshPrimary_st _ i] at kept
      exact offerReceiver aimed (refreshed.trans (.setHelio (.toState kept.1 (by decide)) (.of_ne kept.2)))
    · exact (moved.trans (.raiseHelio ..)).trans (.sendOff ..)

theorem crossTo (sun : SnapSun) (k : Nat) (held : Reservation) (calls : (s.helio i).st.calls = .onTarget) :
    s.Proceeds (Machine.crossTo sun i k held s) := by
  unfold Machine.crossTo
  split
  · exact (raiseAt ..).trans (.sendOff ..)
  · rename_i aimed
    dsimp only
    split
    · exact offerReceiver aimed (.admitTransfer _ calls)
    · split
      · have calls' : ((Machine.raiseAt .flux i k s).helio i).st.calls = .onTarget :=
          ((State.KeepsLedger.raiseHelio ..).records i).calls.trans calls
        exact (raiseAt ..).trans (.stayAt _ _ _ calls')
      · exact (raiseAt ..).trans (.sendOff ..)

theorem visitHolder (sun : SnapSun) (held : Reservation) (calls : (s.helio i).st.calls = .onTarget) :
    s.Proceeds (Machine.visitHolder sun i held s) := by
  unfold Machine.visitHolder
  split
  · exact (raiseMiss ..).trans (.sendOff ..)
  · exact (raiseAt ..).trans (.sendOff ..)
  · split
    · exact .stayAt _ _ _ calls
    · split
      · exact .transferTo _ _ _ calls
      · exact .crossTo _ _ _ calls

theorem visitRetarget (sun : SnapSun) (held : Reservation) (retarget : (s.helio i).st = .retarget) :
    s.Proceeds (Machine.visitRetarget sun i held s) := by
  unfold Machine.visitRetarget
  split
  · exact (raiseMiss ..).trans (.sendOff ..)
  · exact (raiseAt ..).trans (.sendOff ..)
  · split
    · split
      · exact (raiseAt ..).trans (.sendOff ..)
      · rename_i aimed
        dsimp only
        split
        · exact offerReceiver aimed (.refreshTransfer _ (by rw [retarget]; decide))
        · exact (raiseHelio ..).trans (.sendOff ..)
    · exact .sendOff i s

theorem visitEligible (sun : SnapSun) (i : Nat) (s : State) : s.Proceeds (Machine.visitEligible sun i s) := by
  unfold Machine.visitEligible
  dsimp only
  split
  · rename_i clear
    exact .visitClear sun clear
  · rename_i approach _
    exact .visitHolder sun _ (by rw [approach]; rfl)
  · rename_i onTarget _
    exact .visitHolder sun _ (by rw [onTarget]; rfl)
  · rename_i retarget _
    exact .visitRetarget sun _ retarget
  · exact .refl s

theorem visitDecide (i : Nat) (s : State) : s.Proceeds (Machine.visitDecide i s) := by
  unfold Machine.visitDecide
  dsimp only
  split
  · exact .visitOutOfService i s
  · split
    · exact .offerStandby i s
    · split
      · exact .visitIneligible i s
      · split
        · exact .visitEligible ..
        · exact .refl s

theorem visitRecord (i : Nat) (s : State) : s.Proceeds (Machine.visitRecord i s) := by
  rw [visitRecord_eq]
  split
  · exact .refl s
  · exact (clearIdle i s).trans (.visitDecide i _)

end State.Proceeds

end Sys2Proof.Machine
end

section
/-! The laws of a run, sixth part: the rows of the table whose commands set nothing that a request alone sets. -/

namespace Sys2Proof.Machine

/-! ## Acting and answering -/

section Rows
variable {s t : State} {P : State → Prop} {due : Bool} {f : State → State} {kind : Byte} {lengthOk : Nat → Bool}

/-- What holds before a command that may not act, and after what it does, holds after the command. -/
theorem act_induction (arbitrated : ∀ u, P u → P (arbiter u)) (same : P s) (acts : due = true → P (f s))
    (answers : act due f s = .next t) : P t := by
  unfold act at answers
  cases answers
  split
  · rename_i can
    rw [Bool.and_eq_true] at can
    exact arbitrated _ (acts can.1)
  · exact same

/-- What holds before a request, and after what its block does, holds after the request (R182). -/
theorem request_induction {h : Handler} (arbitrated : ∀ u, P u → P (arbiter u))
    (answered : ∀ r segments isRestart u, P u → P (replyTo r segments isRestart u)) (same : P s) (handled : ∀ p, P (h p s).1)
    (answers : request kind lengthOk h s = .next t) : P t := by
  refine act_induction arbitrated same (fun _ => ?_) answers
  obtain kept | ⟨r, -, -, refused⟩ | ⟨r, -, -, -, served⟩ := carryOut_cases kind lengthOk h s
  · rwa [kept]
  · rw [refused]
    exact answered _ _ _ _ same
  · rw [served]
    exact answered _ _ _ _ (handled _)

namespace State.Proceeds

theorem act (answers : Machine.act due f s = .next t) (acts : due = true → s.Proceeds (f s)) : s.Proceeds t :=
  act_induction (fun _ before => before.trans (.arbiter _)) (.refl s) acts answers

theorem request {h : Handler} (answers : Machine.request kind lengthOk h s = .next t) (handled : ∀ p, s.Proceeds (h p s).1) :
    s.Proceeds t :=
  request_induction (fun _ before => before.trans (.arbiter _)) (fun _ _ _ _ before => before.trans (.replyTo ..)) (.refl s) handled
    answers

theorem requestByAccess {first : List Byte → State → State × Served}
    (answers : Machine.requestByAccess kind lengthOk first s = .next t) (serves : ∀ p, s.Serves (first p s)) : s.Proceeds t := by
  refine act answers fun _ => ?_
  obtain kept | ⟨r, -, -, refused⟩ | ⟨r, -, -, -, -, served⟩ | ⟨r, w, next, -, -, left, served⟩ :=
    carryOutAccess_cases kind lengthOk first serveWork s
  · rw [kept]
    exact .refl s
  · rw [refused]
    exact .replyTo ..
  · rw [served]
    exact (serves r.payload).serveAccess r
  · rw [served]
    exact (State.Serves.serveWork (work_inRange next left)).serveAccess r

theorem continueRequest (s : State) : s.Proceeds (Machine.continueRequest s) := by
  unfold Machine.continueRequest
  split
  · exact .refl s
  · rename_i next
    split
    · exact .refl s
    · rename_i left
      exact (State.Serves.serveWork (work_inRange next left)).serveAccess _

end State.Proceeds

end Rows

/-! ## The blocks' answers to requests -/

/-- The user counts of an entry are no part of what the laws read; DISABLE_AIM takes an ENABLED entry out of service (R60). -/
theorem AimEntry.Evolves.disabled (e : AimEntry) : e.Evolves e.disabled := by
  unfold AimEntry.disabled
  split
  · rename_i enabled
    exact ⟨rfl, fun _ => enabled⟩
  · exact ⟨rfl, id⟩

/-! ## A visit leaves the engine's registers -/

section VisitSweep
variable (s : State) (i k c : Nat) (sun : SnapSun) (held r : Reservation)

@[simp] theorem offerStandby_sweep : (offerStandby i s).sweep = s.sweep := by
  unfold offerStandby
  split
  · rfl
  · split <;> simp

@[simp] theorem offerOff_sweep : (offerOff i s).sweep = s.sweep := by
  unfold offerOff
  split
  · simp
  · split <;> simp

@[simp] theorem sendOff_sweep : (sendOff i s).sweep = s.sweep := by simp [sendOff]

@[simp] theorem raiseMiss_sweep : (raiseMiss i s).sweep = s.sweep := rfl

@[simp] theorem raiseAt_sweep (kind : ExcKind) : (raiseAt kind i k s).sweep = s.sweep := rfl

@[simp] theorem decUser_sweep : (decUser k s).sweep = s.sweep := by
  obtain ⟨_, _, _, written⟩ := decUser_eq s k
  rw [written]

@[simp] theorem moveSlot_sweep : (moveSlot i k s).sweep = s.sweep := by
  unfold moveSlot
  split
  · rfl
  · exact decUser_sweep ..

@[simp] theorem refreshPrimary_sweep : (refreshPrimary i c s).sweep = s.sweep := by unfold refreshPrimary; split <;> rfl

@[simp] theorem refreshTransfer_sweep : (refreshTransfer i c s).sweep = s.sweep := by unfold refreshTransfer; split <;> rfl

@[simp] theorem admitPrimary_sweep : (admitPrimary i r s).sweep = s.sweep := by simp [admitPrimary, incUser]

@[simp] theorem admitTransfer_sweep : (admitTransfer i r s).sweep = s.sweep := by simp [admitTransfer, incUser]

@[simp] theorem stayAt_sweep : (stayAt sun i k held s).sweep = s.sweep := by
  unfold stayAt
  split
  · simp
  · dsimp only
    split <;> simp

@[simp] theorem transferTo_sweep : (transferTo sun i k held s).sweep = s.sweep := by
  unfold transferTo
  split
  · simp
  · dsimp only
    split <;> simp

@[simp] theorem crossTo_sweep : (crossTo sun i k held s).sweep = s.sweep := by
  unfold crossTo
  cases s.receiverFor sun i k with
  | error f => simp
  | ok p =>
    rw [apply_ite State.sweep, apply_ite State.sweep]
    simp

@[simp] theorem visitHolder_sweep : (visitHolder sun i held s).sweep = s.sweep := by
  unfold visitHolder
  split
  · simp
  · simp
  · split
    · simp
    · split <;> simp

@[simp] theorem visitRetarget_sweep : (visitRetarget sun i held s).sweep = s.sweep := by
  unfold visitRetarget
  split
  · simp
  · simp
  · split
    · split
      · simp
      · dsimp only
        split <;> simp
    · simp

@[simp] theorem visitClear_sweep : (visitClear sun i s).sweep = s.sweep := by
  unfold visitClear
  split
  · simp
  · simp
  · rename_i k _
    cases s.receiverFor sun i k with
    | error f => simp
    | ok p =>
      rw [apply_ite State.sweep]
      simp

@[simp] theorem visitEligible_sweep : (visitEligible sun i s).sweep = s.sweep := by
  unfold visitEligible
  dsimp only
  split <;> simp

@[simp] theorem visitDecide_sweep : (visitDecide i s).sweep = s.sweep := by
  unfold visitDecide visitOutOfService visitIneligible
  dsimp only
  split_ifs <;> (try split) <;> simp

@[simp] theorem clearIdle_sweep : (s.clearIdle i).sweep = s.sweep := by unfold State.clearIdle; split <;> rfl

theorem visitRecord_sweep : (visitRecord i s).sweep = s.sweep := by
  rw [visitRecord_eq]
  split <;> simp

end VisitSweep

section Unchanged
variable (p : List Byte) (s : State)

theorem readZonesHandler_same : (readZonesHandler p s).1 = s := by
  unfold readZonesHandler
  dsimp only
  split <;> rfl

theorem readAimHandler_same : (readAimHandler p s).1 = s := by
  unfold readAimHandler
  dsimp only
  split <;> rfl

theorem readClassHandler_same : (readClassHandler p s).1 = s := by
  unfold readClassHandler
  dsimp only
  split <;> rfl

end Unchanged

namespace State.Serves
variable (p : List Byte) (s : State)

theorem readHeliostatsFirst : s.Serves (Machine.readHeliostatsFirst p s) := by
  unfold Machine.readHeliostatsFirst
  dsimp only
  split
  · exact .last _ (.refl s)
  · split
    · refine .readRecord fun _ => ?_
      rw [List.length_nil]
      omega
    · exact .endRead fun port => port.1

theorem releaseHeliostatFirst : s.Serves (Machine.releaseHeliostatFirst p s) := by
  unfold Machine.releaseHeliostatFirst
  dsimp only
  split
  · exact .releaseRecord 0 s
  · split
    · exact .last _ (.refl s)
    · exact .last _ (.setHelio .unlatched (.of_same _ rfl rfl rfl))

theorem haltFirst : s.Serves (Machine.haltFirst p s) := by
  unfold Machine.haltFirst
  cases mode : s.sup.mode with
  | stowing | quiet | halted => exact .last _ (.refl s)
  | tracking | stowed =>
    dsimp only
    split
    · exact .last _ (.refl s)
    · exact .haltFrom 0 (.haltMode (by simp [mode]))

end State.Serves

namespace State.Proceeds
variable (p : List Byte) (s : State)

theorem disableAimHandler : s.Proceeds (Machine.disableAimHandler p s).1 := by
  unfold Machine.disableAimHandler
  dsimp only
  split
  · exact .refl s
  · exact setEntry (.disabled _)

theorem widenAimHandler : s.Proceeds (Machine.widenAimHandler p s).1 := by
  unfold Machine.widenAimHandler
  dsimp only
  split
  · exact .refl s
  · split_ifs
    · exact .refl s
    · exact .refl s
    · exact setEntry ⟨rfl, id⟩

theorem selectStrategyHandler : s.Proceeds (Machine.selectStrategyHandler p s).1 := by
  unfold Machine.selectStrategyHandler
  dsimp only
  split
  · exact .refl s
  · rename_i inRange
    refine of_sweep (fun law => { law with }) fun ⟨⟨active, snap, _⟩, rest⟩ => ⟨⟨active, snap, fun v e => ?_⟩, rest⟩
    cases e
    exact Nat.le_of_not_lt inRange

theorem setPending (z : Nat) (vs : List Nat) : s.Proceeds (Machine.setPending z vs s) := by
  induction vs generalizing z s with
  | nil => exact .refl s
  | cons v rest ih =>
    have pending : s.Proceeds (s.setZone z { s.zone z with pending := some (min 16777215 v) }) :=
      setZone fun inRange => ⟨inRange.1, fun w e => Option.some.inj e ▸ min_le_left ..⟩
    exact pending.trans (ih _ _)

theorem setAllowanceHandler : s.Proceeds (Machine.setAllowanceHandler p s).1 := by
  unfold Machine.setAllowanceHandler
  dsimp only
  split
  · exact .refl s
  · exact .setPending ..

theorem setNoticesHandler : s.Proceeds (Machine.setNoticesHandler p s).1 := by
  unfold Machine.setNoticesHandler
  split
  · exact .refl s
  · exact of_notices id

theorem setCursorHandler : s.Proceeds (Machine.setCursorHandler p s).1 := by
  unfold Machine.setCursorHandler
  dsimp only
  split
  · exact .refl s
  · rename_i inTable
    exact of_link fun port => ⟨Nat.le_of_not_lt inTable, port.2⟩

theorem clearFlagsHandler : s.Proceeds (Machine.clearFlagsHandler p s).1 := setExc rfl fun _ => Nat.zero_le _

theorem readStatusHandler : s.Proceeds (Machine.readStatusHandler p s).1 :=
  { refl s with notices := fun inRange => ⟨inRange.1, Nat.zero_le _, inRange.2.2⟩ }

theorem readMissHandler : s.Proceeds (Machine.readMissHandler p s).1 := of_notices fun inRange => ⟨Nat.zero_le _, inRange.2⟩

theorem clearedRead (set : BitVec 6) : s.Proceeds { s with notices := s.notices.clearSet set } := of_notices id

/-- A request that its block answers without a change. -/
theorem of_same {t : State} (same : t = s) : s.Proceeds t := by
  rw [same]
  exact .refl s

theorem startHandler : s.Proceeds (Machine.startHandler p s).1 := by
  unfold Machine.startHandler
  split
  · exact .refl s
  · rename_i halted
    have halted : s.sup.mode = .halted := by simpa using halted
    split
    · exact .refl s
    · rename_i present
      change s.Proceeds (Machine.enterTracking (setMode .tracking s))
      rw [setMode_ne (by rw [halted]; decide), if_neg (by rw [halted]; decide)]
      exact enterTracking (u := { s.sup with mode := .tracking }) rfl ⟨rfl, rfl⟩ (.raise .mode) (by simpa using present)
        (by simp [halted]) rfl fun law => law.noStowPass (by rw [halted]; decide)

theorem resumeField {s : State} (from_ : s.sup.mode = .stowing ∨ s.sup.mode = .stowed) (present : s.sup.sunPresent = true) :
    s.Proceeds (Machine.resumeField s) := by
  have other : s.sup.mode ≠ .tracking ∧ s.sup.mode ≠ .quiet := by obtain e | e := from_ <;> simp [e]
  unfold Machine.resumeField
  rw [setMode_ne other.1, if_neg other.1]
  exact enterTracking (u := { s.sup with mode := .tracking, stowPass := none }) rfl ⟨rfl, rfl⟩ (.raise .mode) present other rfl
    fun _ => rfl

theorem resumeHandler : s.Proceeds (Machine.resumeHandler p s).1 := by
  have resumed (from_ : s.sup.mode = .stowing ∨ s.sup.mode = .stowed) :
      s.Proceeds (if s.sup.sunPresent = false then refuseMode .noSun s
        else if s.weather.stowIn.level then refuseMode .line s
        else if s.weather.wind ≠ .calm then refuseMode .windy s
        else acceptMode (Machine.resumeField s)).1 := by
    split_ifs with absent
    · exact .refl s
    · exact .refl s
    · exact .refl s
    · exact resumeField from_ (by simpa using absent)
  unfold Machine.resumeHandler
  cases mode : s.sup.mode with
  | halted | tracking | quiet => exact .refl s
  | stowing => exact resumed (.inl mode)
  | stowed => exact resumed (.inr mode)

theorem quietHandler : s.Proceeds (Machine.quietHandler p s).1 := by
  unfold Machine.quietHandler
  cases mode : s.sup.mode with
  | stowed => exact quietField mode
  | quiet | halted | tracking | stowing => exact .refl s

/-- WAKE stops the quiet timers, in STOWED or STOWING (R158). -/
theorem wakeField {s : State} (quiet : s.sup.mode = .quiet) : s.Proceeds (Machine.wakeField s) := by
  have woken : ∃ m, (m = .stowed ∨ m = .stowing) ∧ Machine.stowTest (setMode .stowed s) =
      { s with sup := { s.sup with mode := m }, notices := s.notices.raise .mode } := by
    rw [setMode_ne (by rw [quiet]; decide), if_neg (by rw [quiet]; decide)]
    obtain same | ⟨m, moved, ⟨-, other, -⟩ | ⟨rfl, -⟩⟩ :=
      stowTest_cases { s with sup := { s.sup with mode := .stowed }, sweep := s.sweep, notices := s.notices.raise .mode }
    · exact ⟨_, .inl rfl, same⟩
    · cases other
    · refine ⟨_, .inr rfl, moved.trans ?_⟩
      rw [raise_idem]
  obtain ⟨m, between, stowed⟩ := woken
  unfold Machine.wakeField
  rw [stowed]
  refine trans ?_ (.chooseAll _ _)
  have awake : m ≠ .tracking ∧ m ≠ .quiet := by obtain rfl | rfl := between <;> decide
  exact
    { refl s with
      notices := .raise .mode
      modes := fun law => by
        have agrees := law.moved (m := m) (pass' := s.sup.stowPass) awake.1
          (fun going => by
            rw [law.noStowPass (by rw [quiet]; decide)] at going
            cases going)
          (q' := fun _ => false) (fun _ => ⟨fun e => (nomatch e), fun e => absurd e awake.2⟩)
        rw [if_neg (by rw [quiet]; decide)] at agrees
        refine { agrees with quiet := fun n => ?_ }
        rw [State.quietLines, line_mapLines (f := fun l => { l with quiet := none }) (s := s) rfl]
        exact agrees.quiet n }

theorem wakeHandler : s.Proceeds (Machine.wakeHandler p s).1 := by
  unfold Machine.wakeHandler
  cases mode : s.sup.mode with
  | quiet =>
    dsimp only [acceptMode]
    exact wakeField mode
  | stowed | halted | tracking | stowing => exact .refl s

theorem answerUnknown : s.Proceeds (Machine.answerUnknown s) := by
  unfold Machine.answerUnknown
  split
  · exact .refl s
  · split
    · exact .refl s
    · exact .replyTo ..

theorem visitNext : s.Proceeds (Machine.visitNext s) := by
  unfold Machine.visitNext
  split
  · exact .refl s
  · rename_i i found
    refine (visitRecord i s).trans (passIndex ?_)
    rw [visitRecord_sweep]
    cases going : s.sweep.progress with
    | none => simp [State.visitTarget, going] at found
    | some p => rfl

theorem leaveReset : s.Proceeds (Machine.leaveReset s) :=
  { refl s with weather := fun _ law => ⟨law.chain, law.speeds, law.ring, law.settle, law.dni⟩ }

end State.Proceeds

end Sys2Proof.Machine
end

section
/-! The laws of a run, seventh part: releases and the warm reset, after which a LEAVING record may stand released, and the rows they and the
parts before cover. -/

namespace Sys2Proof.Machine

/-! ## Releases -/

namespace State.Evolves
variable {s t : State}

/-- One record written, LEAVING or not. -/
theorem setHelio {i : Nat} {h : Helio} (evolves : (s.helio i).Evolves (s.classOf i) h) : s.Evolves (s.setHelio i h) :=
  { refl s with
    records := fun j => by
      rw [helio_setHelio]
      split
      · rename_i written
        obtain ⟨rfl, -⟩ := written
        exact evolves
      · exact .refl _ }

theorem releaseAll {i : Nat} (leaving : (s.helio i).st = .leaving) : s.Evolves (Machine.releaseAll i s) := by
  have occupied : (s.helio i).st ≠ .vacant := by rw [leaving]; decide
  have released : (s.helio i).Evolves (s.classOf i) ({ s.helio i with primary := none, transfer := none }.toState .clear) :=
    .trans (.claims none none) (.toState occupied (by decide))
  exact (setHelio released).trans ((State.Proceeds.releaseSums ..).trans (.releaseSums ..)).toEvolves

theorem awayStep (i : Nat) (r : Reported) (s : State) : s.Evolves (Machine.awayStep i r s) := by
  unfold Machine.awayStep
  dsimp only
  split
  · rename_i away
    exact releaseAll away.1
  · exact refl s

end State.Evolves

/-! ## The access of a valid reply, in three parts -/

/-- The state of a reply access before the away test (R122 to R124). -/
def State.replyHead (s : State) (i : Nat) (move : Option Target) (r : ReplyFields) : State :=
  arrivalStep i ⟨r.az, r.el, r.settled, r.fault⟩ (s.setHelio i ((s.helio i).taken (s.classOf i) move r))

/-- The state after the lag count, FAULTED and LOCAL have followed the reply (R126 to R128). -/
def State.replyMarks (s : State) (i : Nat) (c : DriveClass) (r : ReplyFields) : State :=
  s.setHelio i ({ s.helio i with lag := ((s.helio i).lagAfter c ⟨r.az, r.el, r.settled, r.fault⟩).1 }.faultLocal r)

theorem replyAccess_eq (i : Nat) (move : Option Target) (r : ReplyFields) (s : State) : ∃ changed cond, replyAccess i move r s =
    stowTest (quietNotice changed i (corrective i cond
      ((awayStep i ⟨r.az, r.el, r.settled, r.fault⟩ (s.replyHead i move r)).replyMarks i (s.classOf i) r))) :=
  ⟨_, _, rfl⟩

namespace State.Proceeds
variable {s : State}

theorem replyHead {i : Nat} {r : ReplyFields} (move : Option Target) (fault : r.fault ≤ 4) : s.Proceeds (s.replyHead i move r) :=
  (setHelio (.taken fault move) (.taken _ _ _ _)).trans (.arrivalStep ..)

theorem replyMarks (i : Nat) (c : DriveClass) (r : ReplyFields) (s : State) : s.Proceeds (s.replyMarks i c r) :=
  setHelio (.faultLocal r fun inRange => lagAfter_le inRange.2.1) (.of_same _ rfl rfl rfl)

/-- What follows the marks (R129, R130, R156). -/
theorem afterMarks (i : Nat) (changed : Bool) (cond : Conditions) (s : State) :
    s.Proceeds (Machine.stowTest (Machine.quietNotice changed i (Machine.corrective i cond s))) :=
  ((corrective i cond s).trans (.quietNotice ..)).trans (.stowTest _)

end State.Proceeds

theorem readReply_fault (bs : List Byte) : (readReply bs).fault ≤ 4 := min_le_left ..

namespace State.Evolves
variable {s t : State}

theorem replyAccess {i : Nat} {r : ReplyFields} (move : Option Target) (fault : r.fault ≤ 4) (s : State) :
    s.Evolves (Machine.replyAccess i move r s) := by
  obtain ⟨changed, cond, e⟩ := replyAccess_eq i move r s
  rw [e]
  exact (((State.Proceeds.replyHead move fault).toEvolves.trans (.awayStep ..)).trans
    (State.Proceeds.replyMarks ..).toEvolves).trans (State.Proceeds.afterMarks ..).toEvolves

theorem completePoll (n : Nat) (p : Poll) (bs : List Byte) (s : State) : s.Evolves (Machine.completePoll n p bs s) := by
  unfold Machine.completePoll
  dsimp only
  split
  · split
    · exact (State.Proceeds.endPoll n s).toEvolves
    · exact (replyAccess p.move (readReply_fault bs) s).trans (State.Proceeds.endPoll ..).toEvolves
  · exact (State.Proceeds.missPoll ..).toEvolves

theorem forgetHeliostatHandler (p : List Byte) (s : State) : s.Evolves (Machine.forgetHeliostatHandler p s).1 := by
  unfold Machine.forgetHeliostatHandler
  dsimp only
  split_ifs with past leaving
  · exact refl s
  · exact releaseAll leaving
  · exact refl s

end State.Evolves

/-! ## The warm reset -/

theorem Helio.Evolves.warm {c : DriveClass} (h : Helio) : h.Evolves c h.warm := by
  unfold Helio.warm
  split
  · rename_i occupied
    refine ⟨rfl, ⟨fun e => (nomatch e), fun e => ?_⟩, fun _ _ => ⟨fun _ e => (nomatch e), fun _ e => (nomatch e)⟩, fun _ => ?_⟩
    · simp [Helio.occupied, e] at occupied
    · exact ⟨Nat.zero_le _, Nat.zero_le _, fun _ e => (nomatch e)⟩
  · exact .refl h

theorem AimEntry.Evolves.warm (e : AimEntry) : e.Evolves e.warm := by
  refine ⟨rfl, fun enabled => ?_⟩
  unfold AimEntry.warm at enabled
  dsimp only at enabled
  split at enabled
  · cases enabled
  · exact enabled

theorem entry_mapEntries {f : AimEntry → AimEntry} (empty : f {} = {}) {s t : State} (mapped : t.entries = s.entries.map f) (k : Nat) :
    t.entry k = f (s.entry k) := by
  by_cases inTable : k < Config.nSlot
  · simp [State.entry, inTable, mapped]
  · rw [entry_of_ge inTable, entry_of_ge inTable, empty]

theorem alertLevel_noFlags (masks : BitVec 16) : alertLevel 0#16 masks = false := by simp [alertLevel]

theorem line_afterReset {t : State} (lines : t.lines = Vector.replicate Config.nLine lineAfterReset) (n : Fin Config.nLine) :
    t.line n = lineAfterReset := by
  simp [State.line, lines]

/-- The engine, the supervisor and the lines as a reset leaves them, whatever the sun record (R89, R112, R151). -/
theorem ModeAgrees.afterReset (sun : Bool) {w : Sweep} {q : Fin Config.nLine → Bool} (timer : w.timer = .stopped)
    (waiting : w.startWaiting = false) (progress : w.progress = none) (quiet : ∀ n, q n = false) :
    ModeAgrees .halted sun none w q where
  sun e := nomatch e
  stowPass e := nomatch e
  timer e := absurd timer e
  waiting e := nomatch waiting.symm.trans e
  expired e := nomatch timer.symm.trans e
  goesOn e := nomatch e
  snapshot e := by rw [progress] at e; cases e
  quiet n := by simp [quiet n]

theorem State.Evolves.warmReset (s : State) : s.Evolves (Machine.warmReset s) :=
  { State.Evolves.refl s with
    records := fun i => by
      rw [warmReset_helio]
      exact .warm _
    entries := fun k => by
      rw [entry_mapEntries (f := AimEntry.warm) (s := s) (t := Machine.warmReset s) rfl rfl]
      exact .warm _
    zones := fun z inRange => by
      rw [zone_mapZones (f := Zone.warm) (s := s) (t := Machine.warmReset s) rfl rfl]
      exact ⟨inRange.1, fun _ e => (nomatch e)⟩
    alert := fun _ => (alertLevel_noFlags _).symm
    count := fun _ => Nat.zero_le _
    modes := fun _ => .afterReset _ rfl rfl rfl fun n => by
      rw [State.quietLines, line_afterReset rfl]
      rfl
    sweep := fun ⟨⟨active, _, _⟩, _, _⟩ => ⟨⟨active, Nat.zero_le _, fun _ e => (nomatch e)⟩,
      (by decide : 0 < 4294967296), fun _ e => (nomatch e)⟩
    port := fun _ => ⟨Nat.zero_le _, Nat.zero_le _, Nat.zero_le _, fun _ m => (nomatch m)⟩
    notices := fun _ => ⟨Nat.zero_le _, Nat.zero_le _, Nat.zero_le _⟩ }

theorem State.Evolves.frameEnd (s : State) : s.Evolves (Machine.frameEnd s) := by
  have sent (l : Link) (cursor : l.cursor = s.link.cursor) (queue : l.queue = s.link.queue ∨ l.queue = s.link.queue.tail)
      (fullList : l.fullList = s.link.fullList ∨ l.fullList = s.link.fullList.tail) : s.Evolves { s with link := l } := by
    refine (State.Proceeds.of_link fun port => ?_).toEvolves
    rw [cursor]
    have port' : Machine.PortInRange s.link.cursor l.queue s.link.fullList := by
      obtain e | e := queue <;> rw [e]
      · exact port
      · exact port.tail
    obtain ⟨inTable, places, places', works⟩ := port'
    refine ⟨inTable, places, ?_, works⟩
    obtain e | e := fullList <;> rw [e]
    · exact places'
    · rw [List.length_tail]
      omega
  unfold Machine.frameEnd
  split
  · exact .refl s
  · split
    · exact sent _ rfl (.inl rfl) (.inl rfl)
    · split_ifs
      · exact .warmReset s
      · exact sent _ rfl (.inl rfl) (.inr rfl)
      · exact sent _ rfl (.inr rfl) (.inl rfl)
    · exact sent _ rfl (.inl rfl) (.inl rfl)

/-! ## The rows -/

end Sys2Proof.Machine

namespace Sys2Proof

/-- The rows that set what one of their requests alone sets, with the cold reset and the wrap of plant time. -/
def Instr.configures : Instr → Bool
  | .coldReset | .setTime | .plantTimeWrap | .loadSun | .setLimits | .setMasks | .loadClass | .loadHeliostat | .removeHeliostat
  | .setDuty | .setStandby | .loadAim => true
  | _ => false

/-- The rows that may release a LEAVING record: a reply, a FORGET_HELIOSTAT, and the warm reset after RESTART's reply. -/
def Instr.releases : Instr → Bool
  | .driveReply _ _ | .forgetHeliostat | .frameSent => true
  | _ => false

end Sys2Proof

namespace Sys2Proof.Machine

/-- Every other row proceeds. -/
theorem exec_proceeds {c : Instr} {s t : State} (sets : c.configures = false) (holds : c.releases = false)
    (answers : exec c s = .next t) : s.Proceeds t := by
  cases c with
  | coldReset | setTime | plantTimeWrap | loadSun | setLimits | setMasks | loadClass | loadHeliostat | removeHeliostat | setDuty
  | setStandby | loadAim => cases sets
  | driveReply | forgetHeliostat | frameSent => cases holds
  -- the port
  | coldResetEnd =>
    cases answers
    split
    · exact .leaveReset s
    · exact .refl s
  | plantFrameReceived frame => exact .act answers fun _ => .takeFrame ..
  | plantByteReceived b => exact .act answers fun _ => .takeByte ..
  | plantFrameGapTimeout | plantFramingError => exact .act answers fun _ => .of_rx ..
  | unknownKindRequest => exact .act answers fun _ => .answerUnknown s
  -- requests
  | clearFlags => exact .request answers fun p => .clearFlagsHandler p s
  | restart => exact .request answers fun _ => .refl s
  | readStatus => exact .request answers fun p => .readStatusHandler p s
  | readMiss => exact .request answers fun p => .readMissHandler p s
  | readFault | readWeather => exact .request answers fun _ => .clearedRead s _
  | readZones => exact .request answers fun p => .of_same s (readZonesHandler_same p s)
  | readAim => exact .request answers fun p => .of_same s (readAimHandler_same p s)
  | readClass => exact .request answers fun p => .of_same s (readClassHandler_same p s)
  | readHeliostats => exact .requestByAccess answers fun p => .readHeliostatsFirst p s
  | setNotices => exact .request answers fun p => .setNoticesHandler p s
  | setCursor => exact .request answers fun p => .setCursorHandler p s
  | selectStrategy => exact .request answers fun p => .selectStrategyHandler p s
  | disableAim => exact .request answers fun p => .disableAimHandler p s
  | widenAim => exact .request answers fun p => .widenAimHandler p s
  | setAllowance => exact .request answers fun p => .setAllowanceHandler p s
  | releaseHeliostat => exact .requestByAccess answers fun p => .releaseHeliostatFirst p s
  | halt => exact .requestByAccess answers fun p => .haltFirst p s
  | start => exact .request answers fun p => .startHandler p s
  | resume => exact .request answers fun p => .resumeHandler p s
  | grantPermit => exact .request answers fun _ => .setGrant true false s
  | revokePermit => exact .request answers fun _ => .setGrant false false s
  | stow => exact .request answers fun _ => .enterStowing s
  | quiet => exact .request answers fun p => .quietHandler p s
  | wake => exact .request answers fun p => .wakeHandler p s
  -- sweeps and passes
  | sweepTimerExpiry =>
    refine .act answers fun due => .sweepTimerExpired ?_
    simp only [Bool.and_eq_true, beq_iff_eq] at due
    exact due.2
  | visit => exact .act answers fun _ => .visitNext s
  | vacantIndexPassed => exact .act answers fun _ => .passPosition s
  | stowPassStep => exact .act answers fun going => .stowPassFrom going
  | defocusPassStep => exact .act answers fun _ => .defocusPassFrom ..
  -- field lines
  | lineSilenceExpiry line => exact .act answers fun _ => .silenceEnded ..
  | pollFrameSent line => exact .act answers fun _ => .withPoll fun _ => .setPhase ..
  | replySyncReceived line => exact .act answers fun _ => .setPhase ..
  | replyTimeout line | replyGapTimeout line | replyFramingError line =>
    exact .act answers fun _ => .withPoll fun p => .missPoll line p s
  | quietTimerExpiry line =>
    refine .act answers fun due => .quietExpired ?_
    rw [Bool.and_eq_true] at due
    exact due.2
  -- weather and the supervisor's timer
  | anemoEdge => exact .act answers fun _ => .onWeather fun law => law.takeEdge _
  | captureWrap => exact .act answers fun _ => .onWeather fun law => law.takeWrap
  | windSample => exact .act answers fun _ => .takeSample s
  | conversionStart | dniReady =>
    exact .act answers fun _ => .onWeather fun law => ⟨law.chain, law.speeds, law.ring, law.settle, law.dni⟩
  | conversionComplete code => exact .act answers fun _ => .takeCode code s
  | dniReadyTimeout => exact .act answers fun _ => .sensorFaultCycle s
  | linePinChange pin level =>
    change execLinePinChange pin level s = .next t at answers
    unfold execLinePinChange at answers
    split at answers
    · cases answers
      exact .setFilter ..
    · exact .act answers fun _ => .setFilter ..
  | lineFilterExpiry pin => exact .act answers fun _ => .filterChange pin s
  | silenceExpiry => exact .act answers fun _ => .silenceExpired s

/-- A row that configures nothing keeps the configuration, and what the laws say. -/
theorem exec_evolves {c : Instr} {s t : State} (sets : c.configures = false) (answers : exec c s = .next t) : s.Evolves t := by
  have arbitrated (u : State) (before : s.Evolves u) : s.Evolves (arbiter u) := before.trans (State.Proceeds.arbiter u).toEvolves
  cases holds : c.releases with
  | false => exact (exec_proceeds sets holds answers).toEvolves
  | true =>
    cases c with
    | driveReply line bytes =>
      refine act_induction arbitrated (.refl s) (fun _ => ?_) answers
      unfold withPoll
      split
      · exact .refl s
      · exact .completePoll ..
    | forgetHeliostat =>
      exact request_induction arbitrated (fun _ _ _ _ before => before.trans (State.Proceeds.replyTo ..).toEvolves) (.refl s)
        (fun p => .forgetHeliostatHandler p s) answers
    | frameSent => exact act_induction arbitrated (.refl s) (fun _ => .frameEnd s) answers
    | _ => cases holds

end Sys2Proof.Machine
end

section
/-! The laws of a run, eighth part: the rows that configure, and the clock; the laws after every step (O51, O53 to O56) and the configuration
frame (O60). -/

namespace Sys2Proof.Machine

/-! ## What a configuring row keeps -/

/-- From s to t every law is kept, only what row c sets is set (O60), and the commands that wait stay (O3). -/
structure State.Configures (c : Instr) (s t : State) : Prop extends s.KeepsLaws t where
  static   : c ≠ .loadHeliostat → c ≠ .removeHeliostat → c ≠ .setDuty → ∀ i, (t.helio i).static = (s.helio i).static
  classes  : c ≠ .loadClass → t.classes = s.classes
  standbys : c ≠ .setStandby → t.standbys = s.standbys
  limits   : c ≠ .setLimits → t.limits = s.limits
  masks    : c ≠ .setMasks → t.exc.masks = s.exc.masks
  time     : c ≠ .setTime → c ≠ .plantTimeWrap → t.sup.plantTime = s.sup.plantTime
  sun      : c ≠ .loadSun → t.sup.sun = s.sup.sun ∧ t.sup.sunPresent = s.sup.sunPresent
  waiting  : t.pending = s.pending

namespace State.Configures
variable {c : Instr} {s t u : State}

theorem of_evolves (e : s.Evolves t) : s.Configures c t :=
  { e.keepsLaws with
    static := fun _ _ _ => e.static
    classes := fun _ => e.classes
    standbys := fun _ => e.standbys
    limits := fun _ => e.limits
    masks := fun _ => e.masks
    time := fun _ _ => e.time
    sun := fun _ => e.sun
    waiting := e.waiting }

theorem refl (c : Instr) (s : State) : s.Configures c s := of_evolves (.refl s)

theorem trans (st : s.Configures c t) (tu : t.Configures c u) : s.Configures c u :=
  { st.toKeepsLaws.trans tu.toKeepsLaws with
    static := fun load remove duty i => (tu.static load remove duty i).trans (st.static load remove duty i)
    classes := fun ne => (tu.classes ne).trans (st.classes ne)
    standbys := fun ne => (tu.standbys ne).trans (st.standbys ne)
    limits := fun ne => (tu.limits ne).trans (st.limits ne)
    masks := fun ne => (tu.masks ne).trans (st.masks ne)
    time := fun set wrap => (tu.time set wrap).trans (st.time set wrap)
    sun := fun ne => ⟨(tu.sun ne).1.trans (st.sun ne).1, (tu.sun ne).2.trans (st.sun ne).2⟩
    waiting := tu.waiting.trans st.waiting }

theorem after (st : s.Configures c t) (tu : t.Proceeds u) : s.Configures c u := st.trans (of_evolves tu.toEvolves)

theorem act {due : Bool} {f : State → State} (answers : Machine.act due f s = .next t) (acts : due = true → s.Configures c (f s)) :
    s.Configures c t :=
  act_induction (fun _ before => before.after (.arbiter _)) (refl c s) acts answers

theorem request {kind : Byte} {lengthOk : Nat → Bool} {h : Handler} (answers : Machine.request kind lengthOk h s = .next t)
    (handled : ∀ p, s.Configures c (h p s).1) : s.Configures c t :=
  request_induction (fun _ before => before.after (.arbiter _)) (fun _ _ _ _ before => before.after (.replyTo ..)) (refl c s)
    handled answers

end State.Configures

/-! ## One record replaced -/

/-- A record replaced by one whose place is its own, whose targets lie in travel and whose counts lie in range. -/
theorem State.KeepsLaws.setHelio {s : State} {i : Nat} {h : Helio}
    (place : s.PlacesDistinct → h.st ≠ .vacant → ∀ j, j ≠ i → (s.helio j).st ≠ .vacant →
      ¬((s.helio j).line = h.line ∧ (s.helio j).addr = h.addr))
    (travel : s.TargetsInTravel → h.st ≠ .vacant → h.InTravel (s.driveClass h.cls))
    (range : (s.helio i).InRange → h.InRange) : s.KeepsLaws (s.setHelio i h) := by
  refine { State.KeepsLaws.refl s with
    places := fun law j k ne oj ok => ?places
    travel := fun law => ⟨law.1, fun j occupied => ?travel⟩
    range := fun law => { law with records := fun j => ?range } }
  case places =>
    rw [helio_setHelio] at oj ok ⊢
    rw [helio_setHelio]
    split at oj <;> split at ok <;> rename_i wj wk
    · exact absurd (wj.1.symm.trans wk.1) ne
    · rw [if_pos wj, if_neg wk]
      exact fun same => place law oj k (fun e => ne (wj.1.symm.trans e.symm)) ok ⟨same.1.symm, same.2.symm⟩
    · rw [if_neg wj, if_pos wk]
      exact place law ok j (fun e => ne (e.trans wk.1)) oj
    · rw [if_neg wj, if_neg wk]
      exact law j k ne oj ok
  case travel =>
    rw [State.classOf, setHelio_driveClass]
    rw [helio_setHelio] at occupied ⊢
    split at occupied
    · rename_i written
      rw [if_pos written]
      exact travel law occupied
    · rename_i kept
      rw [if_neg kept]
      exact law.2 j occupied
  case range =>
    rw [helio_setHelio]
    split
    · exact range (law.records i)
    · exact law.records j

/-! ## Limits -/

/-- The limits that have a range of their own lie in it (Table 10-1). -/
def FixedLimitsLaw (l : Config.Limits) : Prop :=
  ∀ id lo hi, limitRange id = some (lo, hi) → lo ≤ limitValue l id ∧ limitValue l id ≤ hi

theorem limitRange_le {id lo hi : Nat} (range : limitRange id = some (lo, hi)) : lo ≤ hi := by
  unfold limitRange at range
  split at range <;> cases range <;> decide

/-- A limit with a range of its own is stored clamped into it (R185). -/
theorem limitValue_setLimit {l l' : Config.Limits} {id v lo hi : Nat} (range : limitRange id = some (lo, hi))
    (stored : setLimit l id v = some l') : limitValue l' id = clampNat lo hi v := by
  unfold limitRange at range
  split at range <;> cases range <;> cases stored <;> rfl

theorem fixedInRange_applyPairs {ps : List (Nat × Nat)} {l l' : Config.Limits} (fixed : FixedLimitsLaw l)
    (applied : applyPairs l ps = some l') : FixedLimitsLaw l' := by
  induction ps generalizing l with
  | nil =>
    cases applied
    exact fixed
  | cons p rest ih =>
    unfold applyPairs at applied
    split at applied
    · rename_i l1 stored
      refine ih (fun id lo hi range => ?_) applied
      by_cases named : id = p.1
      · subst named
        rw [limitValue_setLimit range stored]
        exact clampNat_mem _ (limitRange_le range)
      · rw [limitValue_setLimit_ne stored named]
        exact fixed id lo hi range
    · cases applied

/-- The limits law is the ranges of the limits that have one, and the order of the resume limits (R135). -/
theorem limitsLaw_iff (l : Config.Limits) : LimitsLaw l ↔ FixedLimitsLaw l
    ∧ (1 ≤ l.gustResume ∧ l.gustResume < l.gustStow) ∧ (1 ≤ l.sustainedResume ∧ l.sustainedResume < l.sustainedStow) := by
  constructor
  · intro law
    refine ⟨fun id lo hi range => ?_, law.gustResume, law.sustainedResume⟩
    unfold limitRange at range
    split at range <;> cases range
    exacts [law.sweepPeriod, law.sunValidity, ⟨Nat.zero_le _, law.minSunEl⟩, law.silenceTimeout, law.replyTimeout, law.lostLimit,
      law.watchInterval, law.quietInterval, law.pulseDistance, law.gustStow, law.sustainedStow, law.resumeHold, law.span,
      law.decayStep, ⟨Nat.zero_le _, law.fallback⟩]
  · rintro ⟨fixed, gust, sustained⟩
    exact
      { sweepPeriod := fixed 0x01 _ _ rfl, sunValidity := fixed 0x02 _ _ rfl, minSunEl := (fixed 0x03 _ _ rfl).2
        silenceTimeout := fixed 0x04 _ _ rfl, replyTimeout := fixed 0x05 _ _ rfl, lostLimit := fixed 0x06 _ _ rfl
        watchInterval := fixed 0x07 _ _ rfl, quietInterval := fixed 0x08 _ _ rfl, pulseDistance := fixed 0x09 _ _ rfl
        gustStow := fixed 0x0A _ _ rfl, sustainedStow := fixed 0x0B _ _ rfl, gustResume := gust, sustainedResume := sustained
        resumeHold := fixed 0x0E _ _ rfl, span := fixed 0x0F _ _ rfl, decayStep := fixed 0x10 _ _ rfl
        fallback := (fixed 0x11 _ _ rfl).2 }

/-- The final clamp of the resume limits touches no limit with a range of its own (R185). -/
theorem fixedInRange_clampResume {l : Config.Limits} (fixed : FixedLimitsLaw l) : FixedLimitsLaw (clampResume l) := by
  intro id lo hi range
  have inRange := fixed id lo hi range
  unfold limitRange at range
  split at range <;> cases range <;> exact inRange

theorem limitsLaw_clampResume {l : Config.Limits} (fixed : FixedLimitsLaw l) : LimitsLaw (clampResume l) := by
  have gust : 1 ≤ l.gustStow - 1 ∧ l.gustStow - 1 < l.gustStow := by
    have range := fixed 0x0A _ _ rfl
    change 1000 ≤ l.gustStow ∧ _ at range
    omega
  have sustained : 1 ≤ l.sustainedStow - 1 ∧ l.sustainedStow - 1 < l.sustainedStow := by
    have range := fixed 0x0B _ _ rfl
    change 1000 ≤ l.sustainedStow ∧ _ at range
    omega
  have clampedGust := clampNat_mem l.gustResume gust.1
  have clampedSustained := clampNat_mem l.sustainedResume sustained.1
  exact (limitsLaw_iff _).mpr ⟨fixedInRange_clampResume fixed, ⟨clampedGust.1, clampedGust.2.trans_lt gust.2⟩,
    clampedSustained.1, clampedSustained.2.trans_lt sustained.2⟩

/-! ## Classes and records loaded -/

theorem stowTarget_of_inRanges {c : DriveClass} (ok : c.inRanges = true) : (stowTarget c).inTravel c := by
  simp only [DriveClass.inRanges, inRange, Bool.and_eq_true, decide_eq_true_eq] at ok
  obtain ⟨⟨⟨⟨-, az⟩, el⟩, -⟩, -⟩ := ok
  exact ⟨az, el⟩

/-- A record refitted to a class has its targets in its travel (R31, R39). -/
theorem Helio.refit_inTravel {c : DriveClass} (ok : (stowTarget c).inTravel c) (h : Helio) : (h.refit c).InTravel c := by
  constructor
  · intro t e
    obtain ⟨t', -, rfl⟩ := Option.map_eq_some_iff.mp e
    exact clampTo_inTravel ok t'
  · intro t e
    obtain ⟨t', -, rfl⟩ := Option.map_eq_some_iff.mp e
    split
    · exact ok
    · exact clampTo_inTravel ok t'

/-- The record at an index after a class was replaced (R31). -/
theorem replaceClass_helio (n : Nat) (c : DriveClass) (s : State) (i : Nat) : (replaceClass n c s).helio i =
    if (s.helio i).occupied && (s.helio i).cls == n then (s.helio i).refit c else s.helio i := by
  by_cases inTable : i < Config.nHelio
  · exact helio_mapHelios s i _ inTable
  · rw [helio_of_ge _ _ inTable, helio_of_ge _ _ inTable]
    rfl

theorem replaceClass_driveClass {n : Nat} (c : DriveClass) (s : State) (inTable : n < Config.nClass) (m : Nat) :
    (replaceClass n c s).driveClass m = if n = m then c else s.driveClass m := by
  refine (getD_setIfInBounds ..).trans ?_
  simp only [inTable, and_true]
  rfl

namespace State.Configures
variable (p : List Byte) (s : State)

theorem setTimeHandler : s.Configures .setTime (Machine.setTimeHandler p s).1 := by
  unfold Machine.setTimeHandler
  dsimp only
  split
  · exact refl _ s
  · rename_i inRange
    exact { refl _ s with
      range := fun law => { law with time := Nat.le_of_not_lt inRange }
      time := fun set => absurd rfl set }

theorem loadSunHandler : s.Configures .loadSun (Machine.loadSunHandler p s).1 := by
  unfold Machine.loadSunHandler
  split
  · exact refl _ s
  · split
    · exact refl _ s
    · exact { refl _ s with
        modes := fun law => { law with sun := fun _ => rfl }
        range := fun law => { law with }
        sun := fun ne => absurd rfl ne }

theorem plantTimeWrapped : s.Configures .plantTimeWrap { s with sup := { s.sup with plantTime := 0 } } :=
  { refl _ s with
    range := fun law => { law with time := Nat.zero_le _ }
    time := fun _ wrap => absurd rfl wrap }

theorem setLimitsHandler : s.Configures .setLimits (Machine.setLimitsHandler p s).1 := by
  unfold Machine.setLimitsHandler
  dsimp only
  split
  · exact refl _ s
  · rename_i l applied
    have limited : s.Configures .setLimits { s with limits := clampResume l } :=
      { refl _ s with
        range := fun law => { law with
          limits := limitsLaw_clampResume (fixedInRange_applyPairs ((limitsLaw_iff _).mp law.limits).1 applied) }
        limits := fun ne => absurd rfl ne }
    split
    · exact limited
    · exact limited.after (.restartSilence _)

theorem setMasksHandler : s.Configures .setMasks (Machine.setMasksHandler p s).1 := by
  unfold Machine.setMasksHandler
  dsimp only
  obtain ⟨n, written, kept⟩ := setExc_eq { s.exc with masks := BitVec.ofNat 16 (fieldNat p 0 2) } s
  rw [written]
  exact { refl _ s with
    alert := fun _ => rfl
    range := fun law => { law with notices := by obtain rfl | rfl := kept; exacts [law.notices, law.notices.raise .alert] }
    masks := fun ne => absurd rfl ne }

theorem setStandbyHandler : s.Configures .setStandby (Machine.setStandbyHandler p s).1 := by
  unfold Machine.setStandbyHandler
  dsimp only
  split
  · exact { refl _ s with range := fun law => { law with }, standbys := fun ne => absurd rfl ne }
  · exact refl _ s

theorem replaceClass {n : Nat} {c : DriveClass} (inTable : n < Config.nClass) (ok : c.inRanges = true) :
    s.Configures .loadClass (Machine.replaceClass n c s) := by
  have evolves (i : Nat) : ((Machine.replaceClass n c s).helio i).static = (s.helio i).static
      ∧ ((Machine.replaceClass n c s).helio i).st = (s.helio i).st
      ∧ ((s.helio i).InRange → ((Machine.replaceClass n c s).helio i).InRange) := by
    rw [replaceClass_helio]
    split <;> exact ⟨rfl, rfl, id⟩
  have place (i : Nat) := Helio.static_place (evolves i).1
  refine { refl _ s with
    places := fun law i j ne oi oj => ?_
    travel := fun ⟨classes, records⟩ => ⟨fun m => ?_, fun i occupied => ?_⟩
    range := fun law => { law with records := fun i => (evolves i).2.2 (law.records i) }
    static := fun _ _ _ i => (evolves i).1
    classes := fun ne => absurd rfl ne }
  · rw [(place i).1, (place i).2, (place j).1, (place j).2]
    exact law i j ne ((evolves i).2.1 ▸ oi) ((evolves j).2.1 ▸ oj)
  · rw [replaceClass_driveClass c s inTable]
    split
    · exact stowTarget_of_inRanges ok
    · exact classes m
  · rw [(evolves i).2.1] at occupied
    rw [State.classOf, Helio.static_cls (evolves i).1, replaceClass_driveClass c s inTable, replaceClass_helio]
    by_cases named : n = (s.helio i).cls
    · rw [if_pos named, if_pos (by simp [Helio.occupied, occupied, named])]
      exact Helio.refit_inTravel (stowTarget_of_inRanges ok) _
    · rw [if_neg named, if_neg (by simp [Ne.symm named])]
      exact records i occupied

theorem loadClassHandler : s.Configures .loadClass (Machine.loadClassHandler p s).1 := by
  unfold Machine.loadClassHandler
  dsimp only
  split
  · exact refl _ s
  · split_ifs with fields inUse
    · exact refl _ s
    · exact refl _ s
    · obtain ⟨inTable, ok⟩ := not_or.mp fields
      exact (replaceClass s (by simp only [Config.nClass]; omega) (by simpa using ok)).after (.stowTest _)

/-! ### Heliostat records -/

/-- A record written by LOAD_HELIOSTAT, REMOVE_HELIOSTAT or SET_DUTY. -/
theorem setHelio {c : Instr} (row : c = .loadHeliostat ∨ c = .removeHeliostat ∨ c = .setDuty) {s : State} {i : Nat} {h : Helio}
    (keeps : s.KeepsLaws (s.setHelio i h)) : s.Configures c (s.setHelio i h) :=
  { keeps, refl c s with
    static := fun load remove duty => by
      obtain e | e | e := row
      exacts [absurd e load, absurd e remove, absurd e duty] }

theorem setDutyHandler : s.Configures .setDuty (Machine.setDutyHandler p s).1 := by
  unfold Machine.setDutyHandler
  dsimp only
  split
  · exact refl _ s
  · split_ifs
    · exact refl _ s
    · exact refl _ s
    · exact setHelio (.inr (.inr rfl)) (.setHelio
        (fun law occupied j ne oj same => law j _ ne oj occupied same)
        (fun law occupied => law.2 _ occupied) id)

theorem removeRecord (i : Nat) : s.Configures .removeHeliostat (Machine.removeRecord i s) := by
  have left : s.Proceeds (forgetCarried (s.helio i).line (s.helio i).addr (voidPolls i s)) :=
    (State.Proceeds.voidPolls i s).trans (.forgetCarried ..)
  have removed := setHelio (c := .removeHeliostat) (.inr (.inl rfl)) (State.KeepsLaws.setHelio (i := i) (h := {})
    (s := forgetCarried (s.helio i).line (s.helio i).addr (voidPolls i s))
    (fun _ occupied => absurd rfl occupied) (fun _ occupied => absurd rfl occupied) fun _ => Helio.inRange_default)
  exact ((of_evolves left.toEvolves).trans removed).after (.stowTest _)

theorem removeHeliostatHandler : s.Configures .removeHeliostat (Machine.removeHeliostatHandler p s).1 := by
  unfold Machine.removeHeliostatHandler
  dsimp only
  split_ifs
  · exact refl _ s
  · exact refl _ s
  · exact removeRecord s _
  · exact refl _ s

theorem loadInStow {i : Nat} {s : State} (occupied : (s.helio i).st ≠ .vacant) : s.Evolves (Machine.loadInStow i s) := by
  unfold Machine.loadInStow
  split
  case h_1 | h_2 | h_3 =>
    exact (State.Evolves.setHelio (.toState occupied (by decide : HState.clear ≠ .vacant))).trans
      (State.Proceeds.offerStow i _).toEvolves
  case h_4 | h_5 => exact .refl s

theorem joinRing (wasEmpty : Bool) (n : Nat) (s : State) : s.Proceeds (Machine.joinRing wasEmpty n s) := by
  unfold Machine.joinRing
  split
  · exact .choosePoll n s
  · exact .refl s

/-- The place of a load is no other record's (R37, check 3). -/
theorem placeFree {s : State} {i line addr : Nat} (free : s.addressTaken i line addr = false) (j : Nat) (ne : j ≠ i)
    (occupied : (s.helio j).st ≠ .vacant) : ¬((s.helio j).line = line ∧ (s.helio j).addr = addr) := by
  rintro ⟨atLine, atAddr⟩
  have taken : s.addressTaken i line addr = true :=
    (addressTaken_iff s i line addr).mpr ⟨j, lt_of_not_vacant s j occupied, ne, by simpa [Helio.occupied] using occupied, atLine, atAddr⟩
  rw [free] at taken
  cases taken

/-- What LOAD_HELIOSTAT carries is an IDLE record with no target and no count (R38). -/
theorem readHelioFields_fresh {p : List Byte} {f : Helio} (read : readHelioFields p = some f) :
    f.st = .idle ∧ f.commanded = none ∧ f.pendingT = none ∧ f.InRange := by
  obtain ⟨duty, -, rfl⟩ := Option.map_eq_some_iff.mp read
  exact ⟨rfl, rfl, rfl, Nat.zero_le _, Nat.zero_le _, fun _ e => (nomatch e)⟩

theorem loadFresh {p : List Byte} {i : Nat} {f : Helio} {s : State} (read : readHelioFields p = some f)
    (free : s.addressTaken i f.line f.addr = false) : s.Configures .loadHeliostat (Machine.loadFresh i f s) := by
  obtain ⟨idle, commanded, pending, inRange⟩ := readHelioFields_fresh read
  unfold Machine.loadFresh
  dsimp only
  have left : s.Proceeds (if (s.helio i).occupied then forgetCarried (s.helio i).line (s.helio i).addr (voidPolls i s)
      else voidPolls i s) := by
    split
    · exact (State.Proceeds.voidPolls i s).trans (.forgetCarried ..)
    · exact .voidPolls i s
  have joined := left.trans (.forgetCarried f.line f.addr _)
  have same : ∀ j, (forgetCarried f.line f.addr (if (s.helio i).occupied then forgetCarried (s.helio i).line (s.helio i).addr
      (voidPolls i s) else voidPolls i s)).helio j = s.helio j := by
    intro j
    split <;> rfl
  refine (of_evolves joined.toEvolves).trans (setHelio (.inl rfl) (.setHelio (fun _ _ j ne occupied => ?_) (fun _ _ => ?_) fun _ => inRange))
  · rw [same] at occupied ⊢
    exact placeFree free j ne occupied
  · exact ⟨fun t e => (nomatch commanded.symm.trans e), fun t e => nomatch pending.symm.trans e⟩

theorem loadKept {i : Nat} {f : Helio} {s : State} (free : s.addressTaken i f.line f.addr = false)
    (occupied : (s.helio i).st ≠ .vacant) : s.Configures .loadHeliostat (Machine.loadKept i f s) := by
  unfold Machine.loadKept
  dsimp only
  have place : ∀ j, j ≠ i → (s.helio j).st ≠ .vacant → ¬((s.helio j).line = f.line ∧ (s.helio j).addr = f.addr) := placeFree free
  split
  · rename_i same
    exact setHelio (.inl rfl) (.setHelio (fun _ _ => place) (fun law _ => by
      have inTravel := law.2 i occupied
      rw [State.classOf, same] at inTravel
      exact inTravel) id)
  · exact setHelio (.inl rfl) (.setHelio (fun _ _ => place) (fun law _ => Helio.refit_inTravel (law.1 _) _) id)

theorem acceptLoad {p : List Byte} {i : Nat} {f : Helio} {s : State} (inTable : i < Config.nHelio) (read : readHelioFields p = some f)
    (free : s.addressTaken i f.line f.addr = false) : s.Configures .loadHeliostat (Machine.acceptLoad i f s) := by
  have idle := (readHelioFields_fresh read).1
  unfold Machine.acceptLoad
  dsimp only
  refine State.Configures.after (State.Configures.after ?_ (joinRing ..)) (.stowTest _)
  split
  · obtain ⟨ls, e⟩ := State.Moves.loadFresh_eq i f s
    have record : (Machine.loadFresh i f s).helio i = f := by rw [e, helio_setHelio_self _ _ _ inTable]
    exact (loadFresh read free).trans (of_evolves (loadInStow (by rw [record, idle]; decide)))
  · rename_i kept
    have occupied : (s.helio i).st ≠ .vacant := by
      simp only [Bool.or_eq_true, not_or] at kept
      simpa [Helio.occupied] using kept.1.1
    have still : ((Machine.loadKept i f s).helio i).st ≠ .vacant := by
      unfold Machine.loadKept
      dsimp only
      rw [helio_setHelio_self _ _ _ inTable]
      split <;> exact occupied
    exact (loadKept free occupied).trans (of_evolves (loadInStow still))

theorem loadHeliostatHandler : s.Configures .loadHeliostat (Machine.loadHeliostatHandler p s).1 := by
  unfold Machine.loadHeliostatHandler
  dsimp only
  split
  · exact refl _ s
  · rename_i f read
    split_ifs with fields valid taken reserved
    · exact refl _ s
    · exact refl _ s
    · exact refl _ s
    · exact refl _ s
    · exact acceptLoad (Nat.lt_succ_of_le (not_lt.mp (not_or.mp fields).1)) read (by simpa using taken)

/-! ### Aim entries -/

/-- An entry that conflicts with no ENABLED one lies apart from them (R54). -/
theorem apart_of_conflicting {s : State} {k : Nat} {e : AimEntry} (free : s.conflicting k e = none)
    (j : Nat) (ne : j ≠ k) (other : (s.entry j).st = .enabled) : e.Apart (s.entry j) := by
  have noConflict := firstFrom_none free j (Nat.zero_le _) (by simpa using entry_lt other)
  by_contra meets
  simp only [AimEntry.Apart, not_or, not_le, not_and] at meets
  obtain ⟨before, after, strategies⟩ := meets
  have sameUse : (e.shared || (s.entry j).shared || e.strategy == (s.entry j).strategy) = true := by
    cases shared : e.shared <;> cases shared' : (s.entry j).shared <;> simp
    simpa using strategies shared shared'
  have conflicts : (j != k && e.conflicts (s.entry j)) = true := by
    simp [AimEntry.conflicts, AimEntry.intersects, ne, other, before, after, sameUse]
  exact nomatch noConflict.symm.trans conflicts

theorem loadAim {k : Nat} {e : AimEntry} {s : State} (free : s.conflicting k e = none) :
    s.Configures .loadAim (s.setEntry k e) := by
  have apart (j : Nat) (ne : k ≠ j) := apart_of_conflicting free j ne.symm
  refine { refl _ s with
    entries := fun law j m ne ej em => ?_
    range := fun law => { law with } }
  rw [entry_setEntry] at ej em ⊢
  rw [entry_setEntry]
  split at ej <;> split at em <;> rename_i wj wm
  · exact absurd (wj.1.symm.trans wm.1) ne
  · rw [if_pos wj, if_neg wm]
    exact apart m (fun same => ne (wj.1.symm.trans same)) em
  · rw [if_neg wj, if_pos wm]
    exact (apart j (fun same => ne (same.symm.trans wm.1)) ej).symm
  · rw [if_neg wj, if_neg wm]
    exact law j m ne ej em

theorem loadAimHandler : s.Configures .loadAim (Machine.loadAimHandler p s).1 := by
  unfold Machine.loadAimHandler
  dsimp only
  split
  · exact refl _ s
  · split_ifs
    · exact refl _ s
    · exact refl _ s
    · exact refl _ s
    · split
      · exact refl _ s
      · rename_i free
        exact loadAim free

end State.Configures

/-- A row that is not the cold reset keeps the laws, and sets what is its own to set. -/
theorem exec_configures {c : Instr} {s t : State} (running : c ≠ .coldReset) (answers : exec c s = .next t) : s.Configures c t := by
  cases sets : c.configures with
  | false => exact .of_evolves (exec_evolves sets answers)
  | true =>
    cases c with
    | coldReset => exact absurd rfl running
    | setTime => exact .request answers fun p => .setTimeHandler p s
    | plantTimeWrap =>
      change execPlantTimeWrap s = .next t at answers
      unfold execPlantTimeWrap at answers
      exact .act answers fun _ => .plantTimeWrapped s
    | loadSun => exact .request answers fun p => .loadSunHandler p s
    | setLimits => exact .request answers fun p => .setLimitsHandler p s
    | setMasks => exact .request answers fun p => .setMasksHandler p s
    | loadClass => exact .request answers fun p => .loadClassHandler p s
    | loadHeliostat => exact .request answers fun p => .loadHeliostatHandler p s
    | removeHeliostat => exact .request answers fun p => .removeHeliostatHandler p s
    | setDuty => exact .request answers fun p => .setDutyHandler p s
    | setStandby => exact .request answers fun p => .setStandbyHandler p s
    | loadAim => exact .request answers fun p => .loadAimHandler p s
    | _ => cases sets

/-! ## The cold reset and the clock -/

/-- A state as the cold reset leaves it: every part at its default, but for the pins, the queue of commands and the RESET line. -/
def State.AsReset (t : State) : Prop :=
  ∃ stowPin permitPin inReset pending, t = { State.reset with
    weather := { State.reset.weather with stowIn := stowPin, permitIn := permitPin }, inReset := inReset, pending := pending }

theorem limitsLaw_default : LimitsLaw {} := by constructor <;> decide

theorem weatherLaw_default (stowPin permitPin : Filter) : WeatherLaw { stowIn := stowPin, permitIn := permitPin } :=
  ⟨fun _ _ e => (nomatch e), (by decide : 0 ≤ 80000 ∧ 0 ≤ 80000 ∧ 0 ≤ 80000), ⟨Nat.zero_le _, fun _ m => (nomatch m)⟩,
    ⟨Nat.zero_le _, fun _ => (by decide : 0 < 14400)⟩, (by decide : 1000 ≤ 1400),
    fun _ e => (nomatch e)⟩

theorem asReset_entry {t : State} (reset : t.AsReset) (k : Nat) : t.entry k = {} := by
  obtain ⟨_, _, _, _, rfl⟩ := reset
  by_cases inTable : k < Config.nSlot
  · simp [State.entry, State.reset, inTable]
  · exact entry_of_ge inTable

theorem asReset_helio {t : State} (reset : t.AsReset) (i : Nat) : t.helio i = {} := by
  obtain ⟨_, _, _, _, rfl⟩ := reset
  by_cases inTable : i < Config.nHelio
  · simp [State.helio, State.reset, inTable]
  · exact helio_of_ge _ _ inTable

theorem asReset_zone {t : State} (reset : t.AsReset) (z : Nat) : t.zone z = {} := by
  obtain ⟨_, _, _, _, rfl⟩ := reset
  by_cases inTable : z < Config.nZone
  · simp [State.zone, State.reset, inTable]
  · exact zone_of_ge inTable

theorem asReset_driveClass {t : State} (reset : t.AsReset) (n : Nat) : t.driveClass n = {} := by
  obtain ⟨_, _, _, _, rfl⟩ := reset
  by_cases inTable : n < Config.nClass
  · simp [State.driveClass, State.reset, inTable]
  · simp [State.driveClass, Vector.getElem?_eq_none (Nat.le_of_not_lt inTable)]

/-- Every law holds. -/
structure State.MeetsLaws (t : State) : Prop where
  alert   : t.exc.Agrees
  entries : t.EntriesApart
  places  : t.PlacesDistinct
  modes   : t.ModesAgree
  travel  : t.TargetsInTravel
  range   : t.PartsInRange

theorem State.MeetsLaws.kept {t : State} (meets : t.MeetsLaws) (s : State) : s.KeepsLaws t :=
  ⟨fun _ => meets.alert, fun _ => meets.entries, fun _ => meets.places, fun _ => meets.modes, fun _ => meets.travel,
    fun _ => meets.range⟩

/-- The machine right after a cold reset meets every law. -/
theorem meetsLaws_of_asReset {t : State} (reset : t.AsReset) : t.MeetsLaws where
  alert := by
    obtain ⟨_, _, _, _, rfl⟩ := reset
    exact (alertLevel_noFlags _).symm
  entries j k _ enabled := by
    rw [asReset_entry reset] at enabled
    cases enabled
  places i j _ occupied := by
    rw [asReset_helio reset] at occupied
    exact absurd rfl occupied
  modes := by
    obtain ⟨_, _, _, _, rfl⟩ := reset
    refine .afterReset _ rfl rfl rfl fun n => ?_
    rw [State.quietLines, line_afterReset rfl]
    rfl
  travel := by
    refine ⟨fun n => ?_, fun i occupied => ?_⟩
    · rw [asReset_driveClass reset]
      exact stowTarget_default
    · rw [asReset_helio reset] at occupied
      exact absurd rfl occupied
  range := by
    have zones := asReset_zone reset
    have records := asReset_helio reset
    obtain ⟨stowPin, permitPin, _, _, rfl⟩ := reset
    exact
      { limits := limitsLaw_default, weather := weatherLaw_default .., time := Nat.zero_le _
        sweep := ⟨⟨Nat.zero_le _, Nat.zero_le _, fun _ e => (nomatch e)⟩, (by decide : 0 < 4294967296), fun _ e => (nomatch e)⟩
        port := ⟨Nat.zero_le _, Nat.zero_le _, Nat.zero_le _, fun _ m => (nomatch m)⟩
        notices := ⟨Nat.zero_le _, Nat.zero_le _, Nat.zero_le _⟩, count := Nat.zero_le _
        zones := fun z => zones z ▸ Zone.inRange_default, records := fun i => records i ▸ Helio.inRange_default }

theorem coldReset_asReset (s : State) : (coldReset s).AsReset := ⟨_, _, _, _, rfl⟩

theorem tick_sup (u : Sup) : u.tick.mode = u.mode ∧ u.tick.sunPresent = u.sunPresent ∧ u.tick.stowPass = u.stowPass
    ∧ (u.plantTime ≤ 86399999 → u.tick.plantTime ≤ 86399999) := by
  unfold Sup.tick
  dsimp only
  split
  · exact ⟨rfl, rfl, rfl, id⟩
  · exact ⟨rfl, rfl, rfl, fun _ => min_le_left ..⟩

/-- A sweep timer a millisecond on stands where it stood (R90). -/
theorem down_cases (w : SweepTimer) : (w.down = .stopped ↔ w = .stopped) ∧ (w.down = .expired ↔ w = .expired)
    ∧ w.down.isRunning = w.isRunning := by
  cases w <;> simp [SweepTimer.down, SweepTimer.isRunning]

theorem ModeAgrees.counted {mode : Mode} {sun : Bool} {pass : Option Nat} {w : Sweep} {q : Fin Config.nLine → Bool}
    (agrees : ModeAgrees mode sun pass w q) : ModeAgrees mode sun pass { w with timer := w.timer.down } q := by
  obtain ⟨stopped, expired, running⟩ := down_cases w.timer
  exact { agrees with
    timer := fun e => agrees.timer (fun e' => e (stopped.mpr e'))
    expired := fun e => agrees.expired (expired.mp e)
    goesOn := fun e => by
      rw [running]
      exact agrees.goesOn e }

theorem WeatherLaw.tick {w : Weather} (law : WeatherLaw w) : WeatherLaw w.tick := by
  refine ⟨fun count ovf e => ?_, law.speeds, law.ring, law.settle, law.dni⟩
  change w.chain.tick = _ at e
  unfold Chain.tick at e
  split at e
  · cases e
  · rename_i before
    cases e
    exact ⟨min_le_left .., (law.chain _ _ before).2⟩

theorem tick_keepsLaws (s : State) : s.KeepsLaws (tick s) := by
  unfold tick
  split
  · exact .refl s
  · obtain ⟨mode, sun, stowPass, time⟩ := tick_sup s.sup
    exact { State.KeepsLaws.refl s with
      modes := fun law => by
        have quiet : State.quietLines { s with lines := s.lines.map Line.tick } = s.quietLines := by
          funext n
          rw [State.quietLines, line_mapLines (f := Line.tick) (s := s) rfl]
          exact Option.isSome_map
        change ModeAgrees s.sup.tick.mode s.sup.tick.sunPresent s.sup.tick.stowPass _
          (State.quietLines { s with lines := s.lines.map Line.tick })
        rw [mode, sun, stowPass, quiet]
        dsimp only
        split
        · exact law.counted
        · exact law
      range := fun law => { law with
        weather := law.weather.tick
        time := time law.time
        sweep := by
          dsimp only
          split <;> exact law.sweep } }

theorem idleStep_keepsLaws {s t : State} (answers : idleStep s = .next t) : s.KeepsLaws t := by
  unfold idleStep at answers
  split at answers
  · exact (State.Proceeds.act answers fun _ => .continueRequest s).toEvolves.keepsLaws
  · cases answers
    exact tick_keepsLaws s

/-- Every step keeps the laws. -/
theorem step_keepsLaws {s t : State} (answers : step s = .next t) : s.KeepsLaws t := by
  unfold step at answers
  split at answers
  · exact idleStep_keepsLaws answers
  · rename_i c rest _
    have waited : s.KeepsLaws { s with pending := rest } := { State.KeepsLaws.refl s with range := fun law => { law with } }
    refine waited.trans ?_
    by_cases reset : c = .coldReset
    · subst reset
      cases answers
      exact (meetsLaws_of_asReset (coldReset_asReset _)).kept _
    · exact (exec_configures reset answers).toKeepsLaws

/-! ## The statements -/

/-- Settles O51: every step keeps the agreement of ALERT with flags and masks. -/
theorem alertLawKept : Obligations.AlertLawKept := by
  unfold Obligations.AlertLawKept
  intro s t law answers
  exact (alertLaw_iff t).mpr ((step_keepsLaws answers).alert ((alertLaw_iff s).mp law))

/-- Settles O53: entries come to be ENABLED by LOAD_AIM alone, and records to a place by LOAD_HELIOSTAT alone, both after a check. -/
theorem tablesStayDistinct : Obligations.TablesStayDistinct := by
  unfold Obligations.TablesStayDistinct
  refine ⟨fun s t law answers => ?entries, fun s t law answers => ?places⟩
  case entries => exact (noConflict_iff t).mpr ((step_keepsLaws answers).entries ((noConflict_iff s).mp law))
  case places => exact (uniqueAddress_iff t).mpr ((step_keepsLaws answers).places ((uniqueAddress_iff s).mp law))

/-- Settles O54: what the mode law says of the registers and the lines' quiet timers is kept by every step. -/
theorem modeLawKept : Obligations.ModeLawKept := by
  unfold Obligations.ModeLawKept
  intro s t law answers
  exact (modeLaw_iff t).mpr ((step_keepsLaws answers).modes ((modeLaw_iff s).mp law))

/-- Settles O55: every target that is posted, delivered or refitted lies in travel. -/
theorem travelLawKept : Obligations.TravelLawKept := by
  unfold Obligations.TravelLawKept
  intro s t law answers
  exact (travelLaw_iff t).mpr ((step_keepsLaws answers).travel ((travelLaw_iff s).mp law))

/-- Settles O56: every part of the state stays in its range. -/
theorem rangeLawKept : Obligations.RangeLawKept := by
  unfold Obligations.RangeLawKept
  intro s t law answers
  exact (rangeLaw_iff t).mpr ((step_keepsLaws answers).range ((rangeLaw_iff s).mp law))

/-- Settles O57: the laws at the defaults. -/
theorem resetMeetsLaws : Obligations.ResetMeetsLaws := by
  unfold Obligations.ResetMeetsLaws
  have reset : State.reset.AsReset := ⟨_, _, _, _, rfl⟩
  have laws := meetsLaws_of_asReset reset
  refine ⟨(alertLaw_iff _).mpr laws.alert, ?ledger, (noConflict_iff _).mpr laws.entries, (uniqueAddress_iff _).mpr laws.places,
    (modeLaw_iff _).mpr laws.modes, (travelLaw_iff _).mpr laws.travel, (rangeLaw_iff _).mpr laws.range⟩
  case ledger =>
    refine ledgerLaw_of_unreserved (fun i => ?_) (fun z => ?_) (fun k => ?_) (fun k _ => ?_)
      ⟨(by decide : 1000 ≤ 1400), Nat.zero_le _, (by decide : 1000 ≤ 1400)⟩
    · rw [asReset_helio reset]
      exact ⟨rfl, rfl, rfl, Nat.zero_le _⟩
    · rw [asReset_zone reset]
      exact ⟨rfl, rfl⟩
    · rw [asReset_entry reset]
    · rw [asReset_entry reset]
      decide

/-- SET_DUTY writes one duty alone. -/
theorem setDuty_dutyAlone {s t : State} (answers : exec .setDuty s = .next t) (i : Nat) :
    { t.helio i with duty := (s.helio i).duty } = s.helio i := by
  refine request_induction (P := fun u => { u.helio i with duty := (s.helio i).duty } = s.helio i) (fun u before => ?arbitrated)
    (fun _ _ _ _ before => before) rfl (fun p => ?handled) answers
  case arbitrated => rwa [arbiter_helio]
  case handled =>
    unfold setDutyHandler
    dsimp only
    split
    · rfl
    · split_ifs
      · rfl
      · rfl
      · rw [helio_setHelio]
        split
        · rename_i written
          rw [← written.1]
        · rfl

/-- Settles O60: of each part, the rows that write it. -/
theorem configurationFrame : Obligations.ConfigurationFrame := by
  unfold Obligations.ConfigurationFrame
  intro c s t answers running
  have frame := exec_configures running answers
  refine ⟨frame.static, ?duty, frame.classes, frame.standbys, frame.limits, frame.masks, frame.time, frame.sun⟩
  case duty =>
    rintro rfl
    exact setDuty_dutyAlone answers

end Sys2Proof.Machine
end

section
/-! How a LEAVING record leaves that state (O58). One that holds nothing is followed through the moves of the ledger; one that holds a
reservation stays LEAVING but for a release or a reset, row by row. -/

namespace Sys2Proof.Machine

/-! ## Records that hold nothing -/

/-- A record LEAVING or idle that holds nothing comes to hold nothing, and to LEAVING only if it was. -/
def Helio.StaysUnreserved (h g : Helio) : Prop :=
  h.reserved = false → h.st.calls = .clear ∨ h.st = .leaving →
    g.reserved = false ∧ (g.st.calls = .clear ∨ (h.st = .leaving ∧ g.st = .leaving))

theorem reserved_false {h : Helio} : h.reserved = false ↔ h.primary = none ∧ h.transfer = none := by
  simp [Helio.reserved]

theorem calls_leaving {st : HState} : st.calls = .leaving ↔ st = .leaving := by cases st <;> simp [HState.calls]

namespace Helio.StaysUnreserved

theorem refl (h : Helio) : h.StaysUnreserved h := fun unreserved idle => ⟨unreserved, idle.imp_right fun leaving => ⟨leaving, leaving⟩⟩

theorem trans {a b c : Helio} (ab : a.StaysUnreserved b) (bc : b.StaysUnreserved c) : a.StaysUnreserved c := by
  intro unreserved idle
  obtain ⟨unreserved', idle'⟩ := ab unreserved idle
  obtain ⟨unreserved'', idle''⟩ := bc unreserved' (idle'.imp_right And.right)
  refine ⟨unreserved'', idle''.imp_right fun ⟨leaving', leaving''⟩ => ⟨?_, leaving''⟩⟩
  obtain calls | ⟨leaving, -⟩ := idle'
  · rw [leaving'] at calls
    cases calls
  · exact leaving

theorem of_keeps {h g : Helio} (k : h.KeepsClaims g) : h.StaysUnreserved g := by
  intro unreserved idle
  refine ⟨?_, ?_⟩
  · rw [reserved_false, k.primary, k.transfer]
    exact reserved_false.mp unreserved
  · rw [k.calls]
    refine idle.imp_right fun leaving => ⟨leaving, calls_leaving.mp ?_⟩
    rw [k.calls, leaving]
    rfl

theorem of_clear {h g : Helio} (primary : g.primary = none) (transfer : g.transfer = none) (calls : g.st.calls = .clear) :
    h.StaysUnreserved g := fun _ _ => ⟨reserved_false.mpr ⟨primary, transfer⟩, .inl calls⟩

/-- A record in another state, which the statement does not speak of. -/
theorem of_other {h g : Helio} (calls : h.st.calls = .onTarget ∨ h.st.calls = .retarget) : h.StaysUnreserved g := by
  intro _ idle
  obtain e | e := calls <;> obtain clear | leaving := idle
  all_goals simp_all [HState.calls]

theorem of_primary {h g : Helio} {r : Reservation} (holds : h.primary = some r) : h.StaysUnreserved g := by
  intro unreserved
  rw [(reserved_false.mp unreserved).1] at holds
  cases holds

theorem setHelio {s : State} {i : Nat} {h : Helio} (stays : (s.helio i).StaysUnreserved h) (j : Nat) :
    (s.helio j).StaysUnreserved ((s.setHelio i h).helio j) := by
  rw [helio_setHelio]
  split
  · rename_i written
    obtain ⟨rfl, -⟩ := written
    exact stays
  · exact refl _

end Helio.StaysUnreserved

theorem LedgerMove.staysUnreserved {s t : State} (move : LedgerMove s t) (j : Nat) :
    (s.helio j).StaysUnreserved (t.helio j) := by
  have kept : (s.helio j).StaysUnreserved (s.helio j) := .refl _
  cases move with
  | keep same => exact .of_keeps (same.records j)
  | replace i h unreserved primary transfer calls => exact .setHelio (.of_clear primary transfer calls) j
  | load | disable => exact kept
  | leave i =>
    rw [enterLeaving_helio]
    split
    · rename_i own
      refine .of_other ?_
      have holder := own.2
      unfold Helio.holder at holder
      split at holder <;> rename_i st
      · exact .inl (by rw [← own.1, st]; rfl)
      · exact .inl (by rw [← own.1, st]; rfl)
      · exact .inr (by rw [← own.1, st]; rfl)
      all_goals cases holder
    · exact kept
  | release i =>
    rw [releaseAll_sums, releaseSums_helio, releaseSums_helio]
    exact .setHelio (.of_clear (toState_primary ..) (toState_transfer ..) (by rw [Helio.released, toState_st]; rfl)) j
  | promote i retarget =>
    rw [promote_sums, releaseSums_helio]
    exact .setHelio (.of_other (.inr (by rw [retarget]; rfl))) j
  | refresh i cosq unit calls =>
    cases holds : (s.helio i).primary with
    | none => rwa [refreshPrimary_of_none holds]
    | some r =>
      rw [refreshPrimary_of_some holds]
      exact .setHelio (.of_other (.inl calls)) j
  | refreshMoving i cosq unit retarget =>
    cases holds : (s.helio i).transfer with
    | none => rwa [refreshTransfer_of_none holds]
    | some r =>
      rw [refreshTransfer_of_some holds]
      exact .setHelio (.of_other (.inr (by rw [retarget]; rfl))) j
  | moveSlot i k =>
    cases holds : (s.helio i).primary with
    | none => rwa [moveSlot_of_none holds]
    | some r =>
      rw [moveSlot_of_some holds, incUser_helio, decUser_helio]
      exact .setHelio (.of_primary holds) j
  | warm =>
    rw [warmReset_helio, Helio.warm]
    split
    · exact .of_clear rfl rfl rfl
    · exact kept
  | cold =>
    rw [coldReset_helio]
    exact .of_clear rfl rfl rfl

theorem State.Moves.staysUnreserved {s t : State} (moves : s.Moves t) (j : Nat) : (s.helio j).StaysUnreserved (t.helio j) := by
  induction moves with
  | refl => exact .refl _
  | tail _ move stays => exact stays.trans (move.staysUnreserved j)

/-! ## How a record ends that was LEAVING -/

/-- A LEAVING record stays so with its reservations, or stands released in a state without any (R81, R84). -/
def Helio.EndsReleased (h g : Helio) : Prop :=
  (g.st = .leaving ∧ g.primary = h.primary ∧ g.transfer = h.transfer) ∨ (g.reserved = false ∧ g.st.calls = .clear)

theorem Helio.EndsReleased.of_unreserved {h g : Helio} (leaving : h.st = .leaving) (unreserved : h.reserved = false)
    (stays : h.StaysUnreserved g) : h.EndsReleased g := by
  obtain ⟨unreserved', calls | ⟨-, leaving'⟩⟩ := stays unreserved (.inr leaving)
  · exact .inr ⟨unreserved', calls⟩
  · obtain ⟨primary, transfer⟩ := reserved_false.mp unreserved
    obtain ⟨primary', transfer'⟩ := reserved_false.mp unreserved'
    exact .inl ⟨leaving', primary'.trans primary.symm, transfer'.trans transfer.symm⟩

/-- Once released, a record stays released through moves. -/
theorem Helio.EndsReleased.moves {h : Helio} {s t : State} {i : Nat} (released : (s.helio i).reserved = false ∧ (s.helio i).st.calls = .clear)
    (moves : s.Moves t) : h.EndsReleased (t.helio i) := by
  obtain ⟨unreserved, calls | ⟨leaving, -⟩⟩ := moves.staysUnreserved i released.1 (.inl released.2)
  · exact .inr ⟨unreserved, calls⟩
  · rw [leaving] at released
    cases released.2

theorem State.Proceeds.endsReleased {s t : State} (p : s.Proceeds t) {i : Nat} (leaving : (s.helio i).st = .leaving) :
    (s.helio i).EndsReleased (t.helio i) := .inl (p.leaving i leaving)

/-- A release leaves its record CLEAR and without a reservation (R84). -/
theorem releaseAll_released {s : State} {i : Nat} (inTable : i < Config.nHelio) :
    ((releaseAll i s).helio i).reserved = false ∧ ((releaseAll i s).helio i).st.calls = .clear := by
  rw [releaseAll_sums, releaseSums_helio, releaseSums_helio, helio_setHelio_self _ _ _ inTable]
  exact ⟨reserved_false.mpr ⟨toState_primary .., toState_transfer ..⟩, by rw [Helio.released, toState_st]; rfl⟩

theorem releaseAll_helio_ne {s : State} {i j : Nat} (ne : j ≠ i) : (releaseAll i s).helio j = s.helio j := by
  rw [releaseAll_sums, releaseSums_helio, releaseSums_helio, helio_setHelio_ne _ _ _ _ ne]

section Rows
variable {s : State} {i : Nat}

theorem awayStep_cases (k : Nat) (r : Reported) (s : State) :
    awayStep k r s = s ∨ ((s.helio k).st = .leaving ∧ awayStep k r s = releaseAll k s) := by
  unfold awayStep
  dsimp only
  split
  · rename_i away
    exact .inr ⟨away.1, rfl⟩
  · exact .inl rfl

theorem replyAccess_endsReleased (k : Nat) (move : Option Target) {r : ReplyFields} (fault : r.fault ≤ 4)
    (leaving : (s.helio i).st = .leaving) : (s.helio i).EndsReleased ((replyAccess k move r s).helio i) := by
  obtain ⟨changed, cond, e⟩ := replyAccess_eq k move r s
  have head := State.Proceeds.replyHead (i := k) move fault (s := s)
  have tail (u : State) := (State.Proceeds.replyMarks k (s.classOf k) r u).trans (.afterMarks k changed cond _)
  rw [e]
  obtain stays | ⟨away, released⟩ := awayStep_cases k ⟨r.az, r.el, r.settled, r.fault⟩ (s.replyHead k move r)
  · rw [stays]
    exact (head.trans (tail _)).endsReleased leaving
  · rw [released]
    by_cases own : i = k
    · subst own
      have inTable := lt_of_not_vacant (s.replyHead i move r) i (by rw [away]; decide)
      refine .moves (releaseAll_released (s := s.replyHead i move r) inTable) ?_
      exact (((State.Moves.setHelio (.faultLocal ..)).trans (.corrective ..)).trans
        (.of_ledger (ledger_quietNotice ..))).trans (.of_ledger (ledger_stowTest _))
    · have before := head.leaving i
      have after := (tail (releaseAll k (s.replyHead k move r))).leaving i
      rw [releaseAll_helio_ne own] at after
      exact .inl (Helio.StaysLeaving.trans before after leaving)

theorem endPoll_helio (n : Nat) (s : State) (i : Nat) : (endPoll n s).helio i = s.helio i := by simp [endPoll]

theorem completePoll_endsReleased (n : Nat) (p : Poll) (bs : List Byte) (leaving : (s.helio i).st = .leaving) :
    (s.helio i).EndsReleased ((completePoll n p bs s).helio i) := by
  unfold completePoll
  dsimp only
  split
  · rw [endPoll_helio]
    split
    · exact (State.Proceeds.refl s).endsReleased leaving
    · exact replyAccess_endsReleased _ _ (readReply_fault bs) leaving
  · exact (State.Proceeds.missPoll n p s).endsReleased leaving

theorem forgetHeliostatHandler_endsReleased (p : List Byte) (leaving : (s.helio i).st = .leaving) :
    (s.helio i).EndsReleased (((forgetHeliostatHandler p s).1).helio i) := by
  have stays := (State.Proceeds.refl s).endsReleased leaving
  unfold forgetHeliostatHandler
  dsimp only
  split_ifs with past released
  · exact stays
  · by_cases own : i = fieldNat p 0 2
    · subst own
      exact .inr (releaseAll_released (lt_of_not_vacant _ _ (by rw [leaving]; decide)))
    · dsimp only
      rw [releaseAll_helio_ne own]
      exact stays
  · exact stays

theorem warm_released (leaving : (s.helio i).st = .leaving) :
    ((warmReset s).helio i).reserved = false ∧ ((warmReset s).helio i).st.calls = .clear := by
  rw [warmReset_helio, Helio.warm, if_pos (by simp [Helio.occupied, leaving])]
  exact ⟨rfl, rfl⟩

theorem frameEnd_endsReleased (leaving : (s.helio i).st = .leaving) : (s.helio i).EndsReleased ((frameEnd s).helio i) := by
  have stays := (State.Proceeds.refl s).endsReleased leaving
  unfold frameEnd
  split
  · exact stays
  · split
    · exact stays
    · split_ifs
      · exact .inr (warm_released leaving)
      · exact stays
      · exact stays
    · exact stays

/-! ## The rows that configure leave a record that holds a reservation LEAVING -/

theorem loadInStow_helio_ne {k : Nat} (ne : i ≠ k) (s : State) : (loadInStow k s).helio i = s.helio i := by
  unfold loadInStow
  split
  case h_1 | h_2 | h_3 => rw [offer_helio_ne _ _ _ _ ne, helio_setHelio_ne _ _ _ _ ne]
  case h_4 | h_5 => rfl

theorem acceptLoad_helio_ne {k : Nat} (f : Helio) (ne : i ≠ k) : (acceptLoad k f s).helio i = s.helio i := by
  have joined (b : Bool) (n : Nat) (u : State) : (joinRing b n u).helio i = u.helio i := by
    unfold joinRing
    split
    · exact choosePoll_helio ..
    · rfl
  unfold acceptLoad
  dsimp only
  rw [stowTest_helio, joined, loadInStow_helio_ne ne]
  split
  · obtain ⟨ls, e⟩ := State.Moves.loadFresh_eq k f s
    rw [e, helio_setHelio_ne _ _ _ _ ne]
    rfl
  · exact helio_setHelio_ne _ _ _ _ ne

theorem loadHeliostatHandler_helio (p : List Byte) (reserved : (s.helio i).reserved = true) :
    ((loadHeliostatHandler p s).1).helio i = s.helio i := by
  unfold loadHeliostatHandler
  dsimp only
  split
  · rfl
  · split_ifs with fields valid taken held
    · rfl
    · rfl
    · rfl
    · rfl
    · exact acceptLoad_helio_ne _ fun own : i = fieldNat p 0 2 => held (own ▸ reserved)

theorem removeHeliostatHandler_helio (p : List Byte) (reserved : (s.helio i).reserved = true) :
    ((removeHeliostatHandler p s).1).helio i = s.helio i := by
  unfold removeHeliostatHandler
  dsimp only
  split_ifs with past held occupied
  · rfl
  · rfl
  · unfold removeRecord
    dsimp only
    rw [stowTest_helio, helio_setHelio_ne _ _ _ _ fun own : i = fieldNat p 0 2 => held (own ▸ reserved)]
    rfl
  · rfl

theorem loadClassHandler_leaving (p : List Byte) : (s.helio i).StaysLeaving (((loadClassHandler p s).1).helio i) := by
  unfold loadClassHandler
  dsimp only
  split
  · exact .refl _
  · split_ifs
    · exact .refl _
    · exact .refl _
    · dsimp only
      rw [stowTest_helio, replaceClass_helio]
      split <;> exact .of_same _ rfl rfl rfl

theorem setDutyHandler_leaving (p : List Byte) : (s.helio i).StaysLeaving (((setDutyHandler p s).1).helio i) := by
  unfold setDutyHandler
  dsimp only
  split
  · exact .refl _
  · split_ifs
    · exact .refl _
    · exact .refl _
    · dsimp only
      rw [helio_setHelio]
      split
      · rename_i written
        rw [← written.1]
        exact .of_same _ rfl rfl rfl
      · exact .refl _

theorem setLimitsHandler_helios (p : List Byte) (s : State) : (setLimitsHandler p s).1.helios = s.helios := by
  unfold setLimitsHandler
  dsimp only
  split
  · rfl
  · dsimp only
    split <;> rfl

theorem setStandbyHandler_helios (p : List Byte) (s : State) : (setStandbyHandler p s).1.helios = s.helios := by
  unfold setStandbyHandler
  dsimp only
  split <;> rfl

theorem loadAimHandler_helios (p : List Byte) (s : State) : (loadAimHandler p s).1.helios = s.helios := by
  unfold loadAimHandler
  dsimp only
  split
  · rfl
  · split_ifs
    · rfl
    · rfl
    · rfl
    · split <;> rfl

/-- A request whose block leaves a LEAVING record so. -/
theorem request_endsReleased {kind : Byte} {lengthOk : Nat → Bool} {h : Handler} {t : State} (leaving : (s.helio i).st = .leaving)
    (handled : ∀ p, (s.helio i).EndsReleased (((h p s).1).helio i)) (answers : request kind lengthOk h s = .next t) :
    (s.helio i).EndsReleased (t.helio i) :=
  request_induction (P := fun u => (s.helio i).EndsReleased (u.helio i)) (fun u before => by rwa [arbiter_helio])
    (fun _ _ _ _ before => before) ((State.Proceeds.refl s).endsReleased leaving) handled answers

/-- A row ends LEAVING of a record that holds a reservation by releasing it, or not at all. -/
theorem exec_endsReleased {c : Instr} {t : State} (leaving : (s.helio i).st = .leaving) (reserved : (s.helio i).reserved = true)
    (answers : exec c s = .next t) : (s.helio i).EndsReleased (t.helio i) := by
  have stays := (State.Proceeds.refl s).endsReleased leaving
  have same {u : State} (helios : u.helios = s.helios) : (s.helio i).EndsReleased (u.helio i) := by
    have record : u.helio i = s.helio i := by rw [State.helio, helios, State.helio]
    rwa [record]
  have arbitrated (u : State) (before : (s.helio i).EndsReleased (u.helio i)) : (s.helio i).EndsReleased ((arbiter u).helio i) := by
    rwa [arbiter_helio]
  cases sets : c.configures with
  | false =>
    cases releases : c.releases with
    | false => exact (exec_proceeds sets releases answers).endsReleased leaving
    | true =>
      cases c with
      | driveReply line bytes =>
        refine act_induction (P := fun u => (s.helio i).EndsReleased (u.helio i)) arbitrated stays (fun _ => ?_) answers
        unfold withPoll
        split
        · exact stays
        · exact completePoll_endsReleased _ _ _ leaving
      | forgetHeliostat => exact request_endsReleased leaving (fun p => forgetHeliostatHandler_endsReleased p leaving) answers
      | frameSent =>
        exact act_induction (P := fun u => (s.helio i).EndsReleased (u.helio i)) arbitrated stays
          (fun _ => frameEnd_endsReleased leaving) answers
      | _ => cases releases
  | true =>
    cases c with
    | coldReset =>
      cases answers
      rw [asReset_helio (coldReset_asReset s)]
      exact .inr ⟨rfl, rfl⟩
    | plantTimeWrap =>
      change execPlantTimeWrap s = .next t at answers
      unfold execPlantTimeWrap at answers
      exact act_induction (P := fun u => (s.helio i).EndsReleased (u.helio i)) arbitrated stays (fun _ => stays) answers
    | setTime => exact request_endsReleased leaving (fun p => same (congrArg Prod.fst (ledger_setTimeHandler p s))) answers
    | loadSun => exact request_endsReleased leaving (fun p => same (congrArg Prod.fst (ledger_loadSunHandler p s))) answers
    | setLimits => exact request_endsReleased leaving (fun p => same (setLimitsHandler_helios p s)) answers
    | setMasks => exact request_endsReleased leaving (fun _ => same rfl) answers
    | setStandby => exact request_endsReleased leaving (fun p => same (setStandbyHandler_helios p s)) answers
    | loadAim => exact request_endsReleased leaving (fun p => same (loadAimHandler_helios p s)) answers
    | loadClass => exact request_endsReleased leaving (fun p => .inl (loadClassHandler_leaving p leaving)) answers
    | setDuty => exact request_endsReleased leaving (fun p => .inl (setDutyHandler_leaving p leaving)) answers
    | loadHeliostat =>
      refine request_endsReleased leaving (fun p => ?_) answers
      rw [loadHeliostatHandler_helio p reserved]
      exact stays
    | removeHeliostat =>
      refine request_endsReleased leaving (fun p => ?_) answers
      rw [removeHeliostatHandler_helio p reserved]
      exact stays
    | _ => cases sets

end Rows

theorem tick_helio (s : State) (i : Nat) : (tick s).helio i = s.helio i := by
  unfold tick
  split <;> rfl

theorem idleStep_endsReleased {s t : State} {i : Nat} (leaving : (s.helio i).st = .leaving) (answers : idleStep s = .next t) :
    (s.helio i).EndsReleased (t.helio i) := by
  unfold idleStep at answers
  split at answers
  · exact (State.Proceeds.act answers fun _ => .continueRequest s).endsReleased leaving
  · cases answers
    rw [tick_helio]
    exact (State.Proceeds.refl s).endsReleased leaving

theorem step_endsReleased {s t : State} {i : Nat} (leaving : (s.helio i).st = .leaving) (answers : step s = .next t) :
    (s.helio i).EndsReleased (t.helio i) := by
  unfold step at answers
  split at answers
  · exact idleStep_endsReleased leaving answers
  · rename_i c rest _
    change ((State.helio { s with pending := rest } i)).EndsReleased (t.helio i)
    cases reserved : (s.helio i).reserved with
    | true => exact exec_endsReleased leaving reserved answers
    | false =>
      by_cases visit : c = .visit
      · subst visit
        exact (exec_proceeds rfl rfl answers).endsReleased leaving
      · exact .of_unreserved leaving reserved ((exec_moves visit answers).staysUnreserved i)

/-- Settles O58: a record that holds nothing is followed through the moves of the ledger, one that holds a reservation through the rows. -/
theorem leavingOnlyEndsReleased : Obligations.LeavingOnlyEndsReleased := by
  unfold Obligations.LeavingOnlyEndsReleased
  intro s t i answers leaving
  refine (step_endsReleased leaving answers).imp_right fun ⟨unreserved, calls⟩ => ⟨?_, fun _ => reserved_false.mp unreserved⟩
  cases st : (t.helio i).st with
  | clear => exact .inl rfl
  | idle => exact .inr (.inl rfl)
  | vacant => exact .inr (.inr rfl)
  | approach | onTarget | retarget | leaving =>
    rw [st] at calls
    cases calls

end Sys2Proof.Machine
end


section
/-! The plant link port and the step (O1, O6 to O11): the arbiter, the end of a frame, frames received whole and byte by byte, and requests of
an unknown kind or a wrong length. -/

namespace Sys2Proof.Machine

/-- Settles O1, by the definition of the step. -/
theorem stepTakesFrontCommand : Obligations.StepTakesFrontCommand := by
  unfold Obligations.StepTakesFrontCommand
  intros
  rfl

/-! ## The arbiter and the end of a frame -/

/-- The first due source is the first of the arbiter's order whose due indication is set. -/
theorem firstDue_of_split {n : Notices} {before after : List NoticeSrc} {src : NoticeSrc} (order : noticeOrder = before ++ src :: after)
    (earlier : ∀ b ∈ before, inSet n.due b = false) (due : inSet n.due src = true) : firstDue n = some src := by
  have none_ : before.find? (inSet n.due) = none := by
    rw [List.find?_eq_none]
    intro b m
    simp [earlier b m]
  change noticeOrder.find? (inSet n.due) = some src
  rw [order, List.find?_append, none_, List.find?_cons_of_pos due]
  rfl

/-- A free transmitter with no reply ready takes the first due notice (R179). -/
theorem arbiter_notice {s : State} {src : NoticeSrc} (free : s.link.tx = none) (noReply : s.link.ready = [])
    (first : firstDue s.notices = some src) : arbiter s = { s with
      notices := { s.notices with due := s.notices.due &&& ~~~src.bit, seq := (s.notices.seq + 1) % 256 }
      link := { s.link with tx := some { kind := src.kindByte, tag := BitVec.ofNat 8 s.notices.seq, payload := s.noticePayload src
                                         origin := .notice src } } } := by
  simp [arbiter, free, noReply, first]

/-- A free transmitter with nothing ready and nothing due stays free. -/
theorem arbiter_rests {s : State} (noReply : s.link.ready = []) (noNotice : s.notices.due = 0#6) : arbiter s = s := by
  unfold arbiter
  split
  · rfl
  · rw [noReply, firstDue_eq_none_of_zero noNotice]

/-- Settles O7, by the arbiter's branches. -/
theorem arbiterSendsRepliesThenNotices : Obligations.ArbiterSendsRepliesThenNotices := by
  unfold Obligations.ArbiterSendsRepliesThenNotices
  intro s
  refine ⟨arbiter_busy, fun free r rest ready => ?reply, fun free noReply before src after order earlier due => ?notice,
    fun _ noReply noNotice => arbiter_rests noReply noNotice⟩
  case reply => simp [arbiter, free, ready]
  case notice =>
    refine ⟨_, arbiter_notice free noReply (firstDue_of_split order earlier due), rfl, rfl, fun other => ?_, rfl⟩
    rw [inSet_and, inSet_not, inSet_bit]
    simp [eq_comm]

theorem exec_frameSent {s : State} (running : s.inReset = false) {f : TxFrame} (sending : s.link.tx = some f) :
    exec .frameSent s = .next (arbiter (frameEnd s)) := act_of running (by rw [sending]; rfl) _

/-- Settles O6, by what the frame belongs to. -/
theorem frameSentGivesUpPlace : Obligations.FrameSentGivesUpPlace := by
  unfold Obligations.FrameSentGivesUpPlace
  intro s f running sending
  rw [exec_frameSent running sending]
  refine ⟨fun full restart seg rest more => ?segment, fun reply => ?queue, fun reply => ?full, fun src notice => ?notice⟩
  case segment =>
    have next : frameEnd s = { s with link := { s.link with
        tx := some { f with payload := seg, origin := .reply full restart rest } } } := by
      simp only [frameEnd, sending, more]
    rw [next, arbiter_busy rfl]
  case queue | full => simp [frameEnd, sending, reply]
  case notice => simp [frameEnd, sending, notice]

/-! ## Frames received -/

/-- A frame with its check, LEN, kind and tag before the payload (R180). -/
theorem completeFrame_body (kind tag : Byte) {payload : List Byte} (short : payload.length ≤ 250) :
    completeFrame (plantFrameBody kind tag payload) = true := by
  simp only [completeFrame, plantFrameBody, List.cons_append, BitVec.toNat_ofNat, List.length_append, List.length_cons,
    crcBytes_length, Bool.and_eq_true, decide_eq_true_eq]
  omega

/-- A whole frame taken, whose check matches (R180, R181). -/
theorem takeFrame_body (kind tag : Byte) (payload : List Byte) (s : State) : takeFrame (plantFrameBody kind tag payload) s =
    offerFrame kind tag payload (restartSilence { s with link := { s.link with rx := .hunting } }) := by
  have body : (plantFrameBody kind tag payload).take ((plantFrameBody kind tag payload).length - 2) =
      BitVec.ofNat 8 (payload.length + 2) :: kind :: tag :: payload := by
    unfold plantFrameBody
    rw [List.length_append, crcBytes_length, Nat.add_sub_cancel, List.take_left']
    rfl
  unfold takeFrame
  dsimp only
  rw [show crcMatches (plantFrameBody kind tag payload) = true from crcMatches_self _, if_pos rfl, body]
  rfl

theorem exec_plantFrameReceived {frame : List Byte} {s : State} (running : s.inReset = false) (complete : completeFrame frame = true)
    (fits : s.link.rx.fits frame = true) : exec (.plantFrameReceived frame) s = .next (arbiter (takeFrame frame s)) :=
  act_of running (by rw [complete, fits]; rfl) _

/-- Settles O9, by the check, and then by the room in queue and FULL list. -/
theorem wholeFrameReceived : Obligations.WholeFrameReceived := by
  unfold Obligations.WholeFrameReceived
  refine ⟨fun span b c s running fits complete wrong => ?discarded, fun kind tag payload s short running fits => ?taken⟩
  case discarded =>
    rw [exec_plantFrameReceived running complete fits]
    have mismatch : crcMatches (span ++ [b, c]) = false := by
      rw [crcMatches_two]
      exact decide_eq_false wrong
    unfold takeFrame
    dsimp only
    rw [mismatch]
    rfl
  case taken =>
    refine ⟨_, exec_plantFrameReceived running (completeFrame_body kind tag short) fits, ?_⟩
    rw [takeFrame_body]
    have same : (restartSilence { s with link := { s.link with rx := .hunting } }).link = { s.link with rx := .hunting } := rfl
    unfold offerFrame
    rw [same]
    dsimp only [Config.queueDepth]
    split_ifs <;> exact ⟨rfl, rfl, rfl⟩

/-- Settles O10, by the receiver's state. -/
theorem partialFrameDiscarded : Obligations.PartialFrameDiscarded := by
  unfold Obligations.PartialFrameDiscarded
  intro s running
  have byte (b : Byte) : exec (.plantByteReceived b) s = .next (arbiter (takeByte b s)) := act_true running _
  refine ⟨fun bytes gap receiving => ?busy, fun hunting => ?hunting, fun b gap receiving => ?length⟩
  case busy =>
    have due : s.link.rx.busy = true := by rw [receiving]; rfl
    exact ⟨act_of running due _, act_of running due _⟩
  case hunting =>
    have idle : s.link.rx.busy = false := by rw [hunting]; rfl
    refine ⟨act_false idle _, act_false idle _, fun b => ?_⟩
    rw [byte, takeByte, hunting]
  case length =>
    rw [byte, takeByte, receiving]
    have short : ¬([] ++ [b] : List Byte).length = (([] ++ [b] : List Byte).headD 0#8).toNat + 3 := by
      simp
    dsimp only
    rw [if_neg short]
    by_cases outside : b.toNat < 2 ∨ 252 < b.toNat
    · rw [if_pos outside]
      exact congrArg (fun u => Host.Outcome.next (arbiter u)) (if_pos outside)
    · rw [if_neg outside]
      exact congrArg (fun u => Host.Outcome.next (arbiter u)) (if_neg outside)

/-! ## Frames received byte by byte (O8) -/

/-- The state with its receiver in another state. -/
def State.withRx (rx : Rx) (s : State) : State := { s with link := { s.link with rx := rx } }

/-- The arbiter does not see the receiver. -/
theorem arbiter_withRx (rx : Rx) (s : State) : arbiter (s.withRx rx) = (arbiter s).withRx rx := by
  unfold arbiter State.withRx
  dsimp only
  split
  · rfl
  · split
    · rfl
    · split <;> rfl

/-- The receiver hunts again after a frame, whatever it had received (R180). -/
theorem takeFrame_withRx (frame : List Byte) (rx : Rx) (s : State) : takeFrame frame (s.withRx rx) = takeFrame frame s := rfl

/-- A byte that is not a frame's last is kept, and its last takes the frame (R180). -/
theorem takeByte_withRx {s : State} {received rest : List Byte} {b : Byte} {c : Nat} (inRange : 2 ≤ c ∧ c ≤ 252)
    (len : ((received ++ b :: rest).headD 0#8).toNat = c) (length : (received ++ b :: rest).length = c + 3) :
    takeByte b (s.withRx (.receiving received 0)) =
      if rest = [] then takeFrame (received ++ [b]) s else s.withRx (.receiving (received ++ [b]) 0) := by
  have len' : ((received ++ [b]).headD 0#8).toNat = c := by
    cases received <;> simpa using len
  unfold takeByte
  simp only [State.withRx]
  rw [len', if_neg (by omega)]
  simp only [List.length_append, List.length_cons, List.length_nil] at length ⊢
  cases rest with
  | nil =>
    rw [if_pos (by simpa using length), if_pos rfl]
    rfl
  | cons x more =>
    rw [if_neg (by simp at length; omega), if_neg (by simp)]

/-- The bytes that remain of a frame, received one by one, take it (R180). -/
theorem runCommands_bytes {s : State} (running : s.inReset = false) (rests : arbiter s = s) {c : Nat} (inRange : 2 ≤ c ∧ c ≤ 252)
    (bytes : List Byte) : ∀ received : List Byte, bytes ≠ [] → ((received ++ bytes).headD 0#8).toNat = c →
      (received ++ bytes).length = c + 3 →
      runCommands (bytes.map .plantByteReceived) (s.withRx (.receiving received 0)) =
        .next (arbiter (takeFrame (received ++ bytes) s)) := by
  induction bytes with
  | nil => intro _ some_; exact absurd rfl some_
  | cons b rest ih =>
    intro received _ len length
    have taken : exec (.plantByteReceived b) (s.withRx (.receiving received 0)) =
        .next (arbiter (takeByte b (s.withRx (.receiving received 0)))) := act_true (show (s.withRx (.receiving received 0)).inReset = false from running) _
    simp only [List.map_cons, runCommands]
    rw [taken, takeByte_withRx inRange len length]
    by_cases last : rest = []
    · subst last
      rw [if_pos rfl]
      rfl
    · rw [if_neg last, arbiter_withRx, rests]
      have next := ih (received ++ [b]) last
      rw [List.append_assoc, List.singleton_append] at next
      exact next len length

/-- Settles O8: the sync byte begins a frame, each further byte is kept, and the last takes the frame as a whole. -/
theorem frameBytesAreOffered : Obligations.FrameBytesAreOffered := by
  unfold Obligations.FrameBytesAreOffered
  intro kind tag payload s short running hunting rests
  have fits : s.link.rx.fits (plantFrameBody kind tag payload) = true := by rw [hunting]; rfl
  have whole := exec_plantFrameReceived running (completeFrame_body kind tag short) fits
  have silent : s.withRx .hunting = s := by
    unfold State.withRx
    rw [← hunting]
  refine ⟨?bytes, ?frame⟩
  case frame =>
    rw [whole, takeFrame_body]
    rw [show ({ s with link := { s.link with rx := .hunting } } : State) = s from silent]
  case bytes =>
    have sync : exec (.plantByteReceived 0xA5#8) s = .next (arbiter (takeByte 0xA5#8 s)) := act_true running _
    have begun : takeByte 0xA5#8 s = s.withRx (.receiving [] 0) := by
      unfold takeByte
      rw [hunting]
      rfl
    have inRange : 2 ≤ payload.length + 2 ∧ payload.length + 2 ≤ 252 := by omega
    have rest := runCommands_bytes running rests inRange (plantFrameBody kind tag payload) [] (by simp [plantFrameBody])
      (by simp [plantFrameBody]; omega) (by simp [plantFrameBody])
    rw [whole, ← List.nil_append (plantFrameBody kind tag payload), ← rest]
    simp only [plantFrame, List.map_cons, runCommands]
    rw [sync, begun, arbiter_withRx, rests]

/-! ## Requests that name no kind, or have the wrong length (O11) -/

/-- The commands of Table 10-3, in the order of their kinds. -/
def requestCommands : List Instr :=
  [.setTime, .loadSun, .setLimits, .setMasks, .loadClass, .loadHeliostat, .removeHeliostat, .setDuty, .releaseHeliostat,
    .forgetHeliostat, .setStandby, .loadAim, .disableAim, .widenAim, .selectStrategy, .setAllowance, .start, .halt, .grantPermit,
    .revokePermit, .stow, .resume, .quiet, .wake, .restart, .readStatus, .setCursor, .readHeliostats, .readZones, .readAim,
    .readFault, .readMiss, .readWeather, .clearFlags, .setNotices, .readClass]

/-- A request of the table takes one access or several, with the table's payload lengths (Table 10-3, R182). -/
theorem exec_requestRow {c : Instr} {kind : Byte} {lengthOk : Nat → Bool} (row : requestRow c = some (kind, lengthOk)) :
    (∃ f, ∀ s, exec c s = request kind lengthOk f s) ∨ (∃ first, ∀ s, exec c s = requestByAccess kind lengthOk first s) := by
  have limits : limitsLength = fun n => decide (1 ≤ n) && decide (n ≤ 100) && n % 5 == 0 := by
    funext n
    rw [Bool.eq_iff_iff]
    simp only [limitsLength, Bool.and_eq_true, decide_eq_true_eq, beq_iff_eq]
    omega
  have allowances : allowanceLength = fun n => decide (5 ≤ n) && decide (n ≤ 129) && n % 4 == 1 := by
    funext n
    rw [Bool.eq_iff_iff]
    simp only [allowanceLength, Bool.and_eq_true, decide_eq_true_eq, beq_iff_eq]
    omega
  cases c <;> cases row
  case setLimits => exact .inl ⟨_, fun s => congrArg (request _ · _ s) limits⟩
  case setAllowance => exact .inl ⟨_, fun s => congrArg (request _ · _ s) allowances⟩
  case releaseHeliostat | halt | readHeliostats => exact .inr ⟨_, fun _ => rfl⟩
  all_goals exact .inl ⟨_, fun _ => rfl⟩

/-- A request of the table is answered BAD_LENGTH when its payload has another length (R182). -/
theorem exec_badLength {c : Instr} {kind : Byte} {lengthOk : Nat → Bool} (row : requestRow c = some (kind, lengthOk)) {s : State}
    {r : Req} {payload : List Byte} (asks : s.asks r kind payload) (wrong : lengthOk payload.length = false) :
    exec c s = .next (s.answered r [[0x02#8]]) := by
  obtain ⟨f, carried⟩ | ⟨first, carried⟩ := exec_requestRow row
  · rw [carried, request_badLength asks wrong]
  · rw [carried, requestByAccess_badLength asks wrong]

/-- The kinds the port knows are those of the table (Table 10-3). -/
theorem knownKind_iff (k : Byte) : knownKind k = true ↔ ∃ c lengthOk, requestRow c = some (k, lengthOk) := by
  constructor
  · intro known
    have small : k.toNat < 43 := by
      simp only [knownKind, Bool.or_eq_true, Bool.and_eq_true, decide_eq_true_eq] at known
      omega
    have named : ∀ n < 43, knownKind (BitVec.ofNat 8 n) = true →
        requestCommands.any (fun c => (requestRow c).map (·.1) == some (BitVec.ofNat 8 n)) = true := by decide
    have row := named k.toNat small
    rw [BitVec.ofNat_toNat, BitVec.setWidth_eq] at row
    obtain ⟨c, -, row⟩ := List.any_eq_true.mp (row known)
    rw [beq_iff_eq] at row
    obtain ⟨⟨kind, lengthOk⟩, found, rfl⟩ := Option.map_eq_some_iff.mp row
    exact ⟨c, lengthOk, found⟩
  · rintro ⟨c, lengthOk, row⟩
    cases c <;> cases row <;> rfl

/-- Settles O11, by the checks of the port and the mark of the request carried out. -/
theorem kindThenLengthChecked : Obligations.KindThenLengthChecked := by
  unfold Obligations.KindThenLengthChecked
  refine ⟨fun s r running next => ⟨fun unknown => ?kind, fun c kind lengthOk row named wrong => ?length⟩, knownKind_iff,
    fun s r before after segments done first queue => ?reply⟩
  case kind =>
    refine (act_true running _).trans ?_
    simp only [answerUnknown, next, unknown]
    rfl
  case length => exact exec_badLength row ⟨running, next, named, rfl⟩ wrong
  case reply =>
    unfold replyTo
    rw [queue, markDone_append done first, Bool.or_false]
    rfl

end Sys2Proof.Machine
end


section
/-! Requests that set registers (O12, O13, O15) and the codes that name nothing (O17). -/

namespace Sys2Proof.Machine

/-! ## SET_TIME and LOAD_SUN (R2, R165) -/

theorem exec_setTime_of_asks {s : State} {r : Req} {v : Nat} (fits : v < 4294967296) (asks : s.asks r 0x01#8 (natBytes 4 v)) :
    exec .setTime s = .next (
      if v ≤ 86399999 then { s with sup := { s.sup with plantTime := v, timeSet := true } }.answered r [0x00#8 :: natBytes 4 v]
      else s.answered r [[0x03#8]]) := by
  refine (request_asks asks rfl rfl setTimeHandler).trans ?_
  rw [setTimeHandler, fieldNat_all (by omega)]
  by_cases late : 86399999 < v
  · rw [if_neg (by omega : ¬v ≤ 86399999), if_pos late]
    rfl
  · rw [if_pos (by omega : v ≤ 86399999), if_neg late]
    rfl

/-- The sun record that LOAD_SUN stores: azimuth reduced, elevation and rates clamped (R2). -/
def SunRecord.stored (raw : SunRecord) : SunRecord :=
  { tRef := raw.tRef, azRef := raw.azRef % 360000000, elRef := max (-90000000) (min 90000000 raw.elRef)
    azRate := max (-200000) (min 200000 raw.azRate), elRate := max (-200000) (min 200000 raw.elRate) }

/-- The fields of LOAD_SUN read back. -/
theorem storedSun_bytes {raw : SunRecord} (time : raw.tRef < 4294967296)
    (fits : ∀ v ∈ [raw.azRef, raw.elRef, raw.azRate, raw.elRate], -2147483648 ≤ v ∧ v ≤ 2147483647) :
    fieldNat raw.bytes 0 4 = raw.tRef ∧ storedSun raw.bytes = raw.stored := by
  simp only [List.forall_mem_cons] at fits
  obtain ⟨az, el, azRate, elRate, -⟩ := fits
  have tRef : fieldNat raw.bytes 0 4 = raw.tRef := by
    simp only [SunRecord.bytes, List.append_assoc]
    exact fieldNat_zero _ (by omega)
  refine ⟨tRef, ?_⟩
  unfold storedSun SunRecord.stored
  rw [tRef]
  simp only [SunRecord.bytes, List.append_assoc]
  simp only [fieldInt_append, natBytes_length, intBytes_length, Nat.reduceSub, Nat.reduceLeDiff, Nat.le_refl]
  rw [fieldInt_all (by omega) (by omega)]
  repeat rw [fieldInt_zero _ (by omega) (by omega)]
  simp only [clampInt_eq (-90000000) 90000000 _ (by decide), clampInt_eq (-200000) 200000 _ (by decide)]

theorem exec_loadSun_of_asks {s : State} {r : Req} {raw : SunRecord} (time : raw.tRef < 4294967296)
    (fits : ∀ v ∈ [raw.azRef, raw.elRef, raw.azRate, raw.elRate], -2147483648 ≤ v ∧ v ≤ 2147483647)
    (asks : s.asks r 0x02#8 raw.bytes) :
    exec .loadSun s = .next (
      if 86399999 < raw.tRef then s.answered r [[0x03#8]]
      else if s.sup.timeSet = false then s.answered r [[0x30#8]]
      else { s with sup := { s.sup with sun := raw.stored, sunPresent := true } }.answered r [0x00#8 :: raw.stored.bytes]) := by
  obtain ⟨tRef, stored⟩ := storedSun_bytes time fits
  refine (request_asks asks (by simp [SunRecord.bytes]) rfl loadSunHandler).trans ?_
  rw [loadSunHandler, tRef, stored]
  split_ifs <;> rfl

/-- Settles O12, by the two rows. -/
theorem setTimeAndLoadSun : Obligations.SetTimeAndLoadSun := by
  unfold Obligations.SetTimeAndLoadSun
  exact ⟨fun s r v fits asks => exec_setTime_of_asks fits asks,
    fun s r raw time fits asks => ⟨raw.stored, rfl, exec_loadSun_of_asks time fits asks⟩⟩

/-! ## SET_STANDBY, SET_CURSOR and SELECT_STRATEGY (R32, R45, R63) -/

/-- The point of SET_STANDBY reads back. -/
theorem standbyPayload_fields {n : Nat} {p : Point} (number : n < 256)
    (fits : ∀ v ∈ [p.x, p.y, p.z], -2147483648 ≤ v ∧ v ≤ 2147483647) :
    fieldNat (standbyPayload n p) 0 1 = n ∧ fieldInt (standbyPayload n p) 1 4 = p.x
      ∧ fieldInt (standbyPayload n p) 5 4 = p.y ∧ fieldInt (standbyPayload n p) 9 4 = p.z := by
  simp only [List.forall_mem_cons] at fits
  obtain ⟨x, y, z, -⟩ := fits
  simp only [standbyPayload, List.append_assoc]
  simp only [fieldInt_append, byte1_length, intBytes_length, Nat.reduceSub, Nat.reduceLeDiff, Nat.le_refl]
  exact ⟨fieldNat_byte1 _ number, fieldInt_zero _ (by omega) (by omega), fieldInt_zero _ (by omega) (by omega),
    fieldInt_all (by omega) (by omega)⟩

theorem exec_setStandby_of_asks {s : State} {r : Req} {n : Nat} {p : Point} (number : n < 256)
    (fits : ∀ v ∈ [p.x, p.y, p.z], -2147483648 ≤ v ∧ v ≤ 2147483647) (asks : s.asks r 0x0B#8 (standbyPayload n p)) :
    exec .setStandby s = .next (
      if n ≤ 3 ∧ (-2000000 ≤ p.x ∧ p.x ≤ 2000000) ∧ (-2000000 ≤ p.y ∧ p.y ≤ 2000000) ∧ (0 ≤ p.z ∧ p.z ≤ 2000000) then
        { s with standbys := s.standbys.setIfInBounds n p }.answered r [0x00#8 :: standbyPayload n p]
      else s.answered r [[0x03#8]]) := by
  obtain ⟨index, x, y, z⟩ := standbyPayload_fields number fits
  refine (request_asks asks (by simp [standbyPayload]) rfl setStandbyHandler).trans ?_
  rw [setStandbyHandler, index, x, y, z]
  simp only [inRange, Bool.and_eq_true, decide_eq_true_eq]
  split_ifs <;> rfl

theorem exec_setCursor_of_asks {s : State} {r : Req} {v : Nat} (fits : v < 65536) (asks : s.asks r 0x21#8 (natBytes 2 v)) :
    exec .setCursor s = .next (
      if v ≤ 2048 then { s with link := { s.link with cursor := v } }.answered r [0x00#8 :: natBytes 2 v]
      else s.answered r [[0x03#8]]) := by
  refine (request_asks asks rfl rfl setCursorHandler).trans ?_
  rw [setCursorHandler, fieldNat_all (by omega)]
  by_cases past : 2048 < v
  · rw [if_neg (by omega : ¬v ≤ 2048), if_pos past]
    rfl
  · rw [if_pos (by omega : v ≤ 2048), if_neg past]
    rfl

theorem exec_selectStrategy_of_asks {s : State} {r : Req} {v : Nat} (fits : v < 256) (asks : s.asks r 0x0F#8 (byte1 v)) :
    exec .selectStrategy s = .next (
      if v ≤ 15 then { s with sweep := { s.sweep with pendingStrategy := some v } }.answered r
        [[0x00#8, BitVec.ofNat 8 s.sweep.active, BitVec.ofNat 8 v]]
      else s.answered r [[0x03#8]]) := by
  refine (request_asks asks rfl rfl selectStrategyHandler).trans ?_
  rw [selectStrategyHandler, fieldNat_byte1_all fits]
  by_cases past : 15 < v
  · rw [if_neg (by omega : ¬v ≤ 15), if_pos past]
    rfl
  · rw [if_pos (by omega : v ≤ 15), if_neg past]
    rfl

/-- Settles O15, by the three rows. -/
theorem standbyCursorAndStrategy : Obligations.StandbyCursorAndStrategy := by
  unfold Obligations.StandbyCursorAndStrategy
  exact ⟨fun s r n p number fits asks => exec_setStandby_of_asks number fits asks,
    fun s r v fits asks => exec_setCursor_of_asks fits asks, fun s r v fits asks => exec_selectStrategy_of_asks fits asks⟩

/-! ## Codes that name nothing (O17) -/

/-- A field of one byte is the byte. -/
theorem fieldNat_one {p : List Byte} {off : Nat} (inside : off < p.length) : fieldNat p off 1 = (p.getD off 0#8).toNat := by
  have taken : (p.drop off).take 1 = [p[off]] := by
    rw [List.drop_eq_getElem_cons inside]
    rfl
  have read : p.getD off 0#8 = p[off] := by simp [inside]
  unfold fieldNat
  rw [taken, read]
  simp [beNat]

theorem roundModeOf_of_gt {v : Nat} (past : 3 < v) : roundModeOf v = none := by
  unfold roundModeOf
  split <;> first | omega | rfl

theorem dutyOf_of_gt {v : Nat} (past : 3 < v) : dutyOf v = none := by
  unfold dutyOf
  split <;> first | omega | rfl

theorem spanSizeOf_of_gt {v : Nat} (past : 3 < v) : spanSizeOf v = none := by
  unfold spanSizeOf
  split <;> first | omega | rfl

theorem flagOf_of_gt {v : Nat} (past : 1 < v) : flagOf v = none := by
  unfold flagOf
  split <;> first | omega | rfl

/-- LOAD_AIM's fields hold a span size code, a shared flag and a duty set (R189). -/
theorem readAimFields_none {p : List Byte} (undefined : 1 < fieldNat p 2 1 ∨ 3 < fieldNat p 5 1 ∨ 7 < fieldNat p 19 1) :
    readAimFields p = none := by
  unfold readAimFields
  rcases undefined with flag | span | duties
  · rw [flagOf_of_gt flag]
    cases spanSizeOf (fieldNat p 5 1) <;> rfl
  · rw [spanSizeOf_of_gt span]
  · rw [dutySetOf_of_ge (by omega : 8 ≤ fieldNat p 19 1)]
    cases spanSizeOf (fieldNat p 5 1) <;> cases flagOf (fieldNat p 2 1) <;> rfl

/-- Settles O17: a code that names nothing leaves no fields, and the handler answers BAD_FIELD (R189). -/
theorem undefinedCodesRefused : Obligations.UndefinedCodesRefused := by
  unfold Obligations.UndefinedCodesRefused
  intro s r payload
  refine ⟨fun asks length undefined => ?roundMode, fun asks length undefined => ?duty, fun asks length undefined => ?aim⟩
  case roundMode =>
    refine (request_asks asks (by simp [length]) rfl loadClassHandler).trans ?_
    have none_ : readClassFields payload = none := by
      rw [readClassFields, fieldNat_one (off := 29) (by omega), roundModeOf_of_gt undefined]
      rfl
    rw [loadClassHandler, none_]
    rfl
  case duty =>
    refine (request_asks asks (by simp [length]) rfl loadHeliostatHandler).trans ?_
    have none_ : readHelioFields payload = none := by
      rw [readHelioFields, fieldNat_one (off := 26) (by omega), dutyOf_of_gt undefined]
      rfl
    rw [loadHeliostatHandler, none_]
    rfl
  case aim =>
    refine (request_asks asks (by simp [length]) rfl loadAimHandler).trans ?_
    have none_ : readAimFields payload = none := by
      apply readAimFields_none
      rw [fieldNat_one (by omega), fieldNat_one (by omega), fieldNat_one (by omega)]
      exact undefined
    rw [loadAimHandler, none_]
    rfl

/-! ## SET_LIMITS (R135, R185) -/

/-- The stow limit that bounds a resume limit (R135). -/
def stowLimitOf : Nat → Option Nat
  | 0x0C => some 0x0A
  | 0x0D => some 0x0B
  | _ => none

theorem stowLimitOf_pair {resume stow : Nat} (pair : (resume, stow) = (0x0C, 0x0A) ∨ (resume, stow) = (0x0D, 0x0B)) :
    stowLimitOf resume = some stow ∧ limitRange stow = some (1000, 80000) := by
  obtain named | named := pair <;> cases named <;> exact ⟨rfl, rfl⟩

/-- The last clamp leaves every limit with a range of its own. -/
theorem limitValue_clampResume {id lo hi : Nat} (range : limitRange id = some (lo, hi)) (l : Config.Limits) :
    limitValue (clampResume l) id = limitValue l id := by
  unfold limitRange at range
  split at range <;> cases range <;> rfl

/-- The last clamp brings a resume limit below its stow limit (R135). -/
theorem limitValue_clampResume_resume {resume stow : Nat} (pair : stowLimitOf resume = some stow) (l : Config.Limits) :
    limitValue (clampResume l) resume = clampNat 1 (limitValue l stow - 1) (limitValue l resume) := by
  unfold stowLimitOf at pair
  split at pair <;> cases pair <;> rfl

/-- A resume limit is clamped against its stow limit as stored (R185). -/
theorem limitValue_setLimit_resume {resume stow v : Nat} (pair : stowLimitOf resume = some stow) {l l' : Config.Limits}
    (stored : setLimit l resume v = some l') : limitValue l' resume = clampNat 1 (limitValue l stow - 1) v := by
  unfold stowLimitOf at pair
  split at pair <;> cases pair <;> cases stored <;> rfl

/-- A pair of SET_LIMITS, those before it and those after it applied in order. -/
theorem applyPairs_split {l l' : Config.Limits} {before after : List (Nat × Nat)} {id v : Nat}
    (applied : applyPairs l (before ++ (id, v) :: after) = some l') :
    ∃ l₁ l₂, applyPairs l before = some l₁ ∧ setLimit l₁ id v = some l₂ ∧ applyPairs l₂ after = some l' := by
  obtain ⟨l₁, first, rest⟩ := applyPairs_append before _ l l' applied
  unfold applyPairs at rest
  split at rest
  case h_1 l₂ stored => exact ⟨l₁, l₂, first, stored, rest⟩
  case h_2 => cases rest

/-- A limit with a range of its own takes its last value, clamped (R185). -/
theorem limitValue_applyPairs_last {l l' : Config.Limits} {before after : List (Nat × Nat)} {id v lo hi : Nat}
    (range : limitRange id = some (lo, hi)) (applied : applyPairs l (before ++ (id, v) :: after) = some l')
    (last : ∀ p ∈ after, p.1 ≠ id) : limitValue l' id = max lo (min hi v) := by
  obtain ⟨l₁, l₂, -, stored, rest⟩ := applyPairs_split applied
  rw [limitValue_applyPairs_ne after id l₂ l' rest last, limitValue_setLimit range stored, clampNat_eq lo hi v (limitRange_le range)]

/-- A resume limit takes its last value, clamped against its stow limit as it is stored then (R185). -/
theorem limitValue_applyPairs_resume {l l' : Config.Limits} {before after : List (Nat × Nat)} {resume stow v : Nat}
    (pair : stowLimitOf resume = some stow) (applied : applyPairs l (before ++ (resume, v) :: after) = some l')
    (last : ∀ p ∈ after, p.1 ≠ resume) : ∃ l₁, applyPairs l before = some l₁
      ∧ limitValue l' resume = clampNat 1 (limitValue l₁ stow - 1) v
      ∧ ((∀ p ∈ after, p.1 ≠ stow) → limitValue l' stow = limitValue l₁ stow) := by
  obtain ⟨l₁, l₂, first, stored, rest⟩ := applyPairs_split applied
  have other : stow ≠ resume := by
    unfold stowLimitOf at pair
    split at pair <;> cases pair <;> decide
  refine ⟨l₁, first, ?_, fun kept => ?_⟩
  · rw [limitValue_applyPairs_ne after resume l₂ l' rest last, limitValue_setLimit_resume pair stored]
  · rw [limitValue_applyPairs_ne after stow l₂ l' rest kept, limitValue_setLimit_ne stored other]

/-- The limits of SET_LIMITS are stored, a changed silence timeout restarting the silence timer (R185). -/
theorem exec_setLimits_of_applied {s : State} {r : Req} {pairs : List (Nat × Nat)} (some_ : 1 ≤ pairs.length) (few : pairs.length ≤ 20)
    (fits : ∀ p ∈ pairs, p.1 < 256 ∧ p.2 < 4294967296) (asks : s.asks r 0x03#8 (limitsPayload pairs)) :
    (applyPairs s.limits pairs = none → exec .setLimits s = .next (s.answered r [[0x03#8]]))
    ∧ ∀ l, applyPairs s.limits pairs = some l → exec .setLimits s = .next (
        { s with
          limits := clampResume l
          sup := if (clampResume l).silenceTimeout = s.limits.silenceTimeout then s.sup
            else { s.sup with silence := (clampResume l).silenceTimeout * 1000000 } }.answered r
          [0x00#8 :: pairs.flatMap fun p : Nat × Nat => byte1 p.1 ++ natBytes 4 (limitValue (clampResume l) p.1)]) := by
  have length : (limitsPayload pairs).length = 5 * pairs.length := by
    simp [limitsPayload, List.length_flatMap, Nat.mul_comm]
  have lengthOk : limitsLength (limitsPayload pairs).length = true := by
    rw [length]
    simp only [limitsLength, Bool.and_eq_true, decide_eq_true_eq, beq_iff_eq]
    omega
  have row : exec .setLimits s = _ := request_asks asks lengthOk rfl setLimitsHandler
  rw [row]
  unfold setLimitsHandler
  rw [readPairs_limitsPayload few fits]
  dsimp only
  refine ⟨fun unknown => ?_, fun l applied => ?_⟩
  · rw [unknown]
    rfl
  · rw [applied]
    dsimp only
    by_cases same : (clampResume l).silenceTimeout = s.limits.silenceTimeout
    · rw [if_pos same, if_pos same]
      rfl
    · rw [if_neg same, if_neg same]
      rfl

/-- Settles O13: the pairs applied in order, and the last clamp of the resume limits. -/
theorem setLimitsResult : Obligations.SetLimitsResult := by
  unfold Obligations.SetLimitsResult
  intro s r pairs some_ few fits asks
  obtain ⟨refused, stored⟩ := exec_setLimits_of_applied some_ few fits asks
  refine ⟨fun unknown => refused (applyPairs_none pairs s.limits unknown), fun known => ?_⟩
  obtain ⟨l, applied⟩ := applyPairs_some pairs s.limits known
  refine ⟨clampResume l, stored l applied, fun id lo hi range unnamed => ?unnamed,
    fun id lo hi before v after range split last => ?last, fun resume stow pair two => ?resume⟩
  case unnamed => rw [limitValue_clampResume range, limitValue_applyPairs_ne pairs id s.limits l applied unnamed]
  case last =>
    subst split
    rw [limitValue_clampResume range, limitValue_applyPairs_last range applied last]
  case resume =>
    obtain ⟨bounds, stowRange⟩ := stowLimitOf_pair pair
    rw [limitValue_clampResume stowRange, limitValue_clampResume_resume bounds]
    rw [limitValue_clampResume stowRange] at two
    rw [clampNat_eq _ _ _ (by omega)]
    refine ⟨fun unnamed => ?unnamed, fun before v after split last => ?lastOfBoth, fun before v after stowThen split last then_ => ?general⟩
    case unnamed => rw [limitValue_applyPairs_ne pairs resume s.limits l applied unnamed]
    case lastOfBoth =>
      subst split
      obtain ⟨l₁, -, own, kept⟩ := limitValue_applyPairs_resume bounds applied fun p m => (last p m).1
      rw [own, ← kept fun p m => (last p m).2, clampNat_eq _ _ _ (by omega)]
      omega
    case general =>
      subst split
      obtain ⟨l₁, first, own, -⟩ := limitValue_applyPairs_resume bounds applied last
      have stowStored : limitValue l₁ stow = stowThen := by
        obtain ⟨unnamed, rfl⟩ | ⟨earlier, w, later, rfl, lastStow, rfl⟩ := then_
        · exact limitValue_applyPairs_ne before stow s.limits l₁ first unnamed
        · exact limitValue_applyPairs_last stowRange first lastStow
      rw [own, stowStored]
      unfold clampNat
      split_ifs <;> omega

end Sys2Proof.Machine
end


section
/-! Drive classes and heliostat records loaded and removed (O16, O18, O19). -/

namespace Sys2Proof.Machine

/-! ## LOAD_CLASS and READ_CLASS (R29 to R31) -/

/-- A class is in use while an occupied record of it holds a reservation (R30). -/
theorem classInUse_iff (s : State) (n : Nat) : s.classInUse n = true ↔
    ∃ h ∈ s.helios.toList, h.occupied = true ∧ h.cls = n ∧ (h.primary.isSome ∨ h.transfer.isSome) := by
  simp only [State.classInUse, Helio.reserved, List.any_eq_true, Bool.and_eq_true, Bool.or_eq_true, beq_iff_eq, and_assoc]

/-- LOAD_CLASS's refusals in R30's order, and the class it loads. -/
theorem exec_loadClass_of_asks {s : State} {r : Req} {n : Nat} {c : DriveClass} {payload : List Byte} (index : fieldNat payload 0 1 = n)
    (read : readClassFields payload = some { c with valid := true }) (length : payload.length = 47) (asks : s.asks r 0x05#8 payload) :
    exec .loadClass s = .next (
      if 7 < n ∨ c.inRanges = false then s.answered r [[0x03#8]]
      else if s.classInUse n then s.answered r [[0x14#8]]
      else (stowTest (replaceClass n { c with valid := true } s)).answered r [[0x00#8]]) := by
  have ranges : ({ c with valid := true } : DriveClass).inRanges = c.inRanges := rfl
  refine (request_asks asks (by simp [length]) rfl loadClassHandler).trans ?_
  rw [loadClassHandler, index, read]
  dsimp only
  rw [ranges]
  split_ifs <;> rfl

theorem exec_readClass_of_asks {s : State} {r : Req} {n : Nat} (fits : n < 256) (asks : s.asks r 0x2A#8 (byte1 n)) :
    exec .readClass s = .next (s.answered r (
      if 7 < n then [[0x03#8]] else [0x00#8 :: (byte1 n ++ boolByte (s.driveClass n).valid ++ (s.driveClass n).bytes)])) := by
  refine (request_asks asks rfl rfl readClassHandler).trans ?_
  rw [readClassHandler, fieldNat_byte1_all fits]
  split_ifs <;> rfl

/-- Settles O16, by the two rows. -/
theorem classLoadAndRead : Obligations.ClassLoadAndRead := by
  unfold Obligations.ClassLoadAndRead
  refine ⟨fun s r n c fits gains elLow elHigh angles counts approach lag asks => ?load, fun s r n fits asks => exec_readClass_of_asks fits asks⟩
  obtain ⟨index, read⟩ := readClassFields_classPayload n c fits gains elLow elHigh angles counts approach lag
  rw [exec_loadClass_of_asks index read (by simp [classPayload, DriveClass.bytes]) asks]
  have accepted (inTable : n ≤ 7) (ok : c.inRanges = true) : ¬(7 < n ∨ c.inRanges = false) := by
    simp [ok, inTable]
  refine ⟨fun refused => by rw [if_pos refused], fun inTable ok used => ?inUse, fun inTable ok free => ?loaded⟩
  case inUse => rw [if_neg (accepted inTable ok), if_pos ((classInUse_iff s n).mpr used)]
  case loaded =>
    have unused : ¬s.classInUse n = true := by
      rw [classInUse_iff]
      rintro ⟨h, m, occupied, named, held⟩
      obtain ⟨noPrimary, noTransfer⟩ := free h m occupied named
      simp [noPrimary, noTransfer] at held
    rw [if_neg (accepted inTable ok), if_neg unused]
    have known : n < Config.nClass := Nat.lt_succ_of_le inTable
    refine ⟨replaceClass n { c with valid := true } s, rfl, ?_, fun m other => ?_, fun i _ => ?_, rfl⟩
    · rw [replaceClass_driveClass _ s known, if_pos rfl]
    · rw [replaceClass_driveClass _ s known, if_neg (Ne.symm other)]
    · rw [replaceClass_helio]
      simp only [Bool.and_eq_true, beq_iff_eq]
      rfl

/-! ## LOAD_HELIOSTAT (R37 to R40) -/

/-- LOAD_HELIOSTAT's refusals in R37's order, and the load accepted. -/
theorem exec_loadHeliostat_of_asks {s : State} {r : Req} {i : Nat} {f : Helio} {payload : List Byte} (index : fieldNat payload 0 2 = i)
    (read : readHelioFields payload = some (({ st := .idle } : Helio).withStatic f)) (length : payload.length = 27)
    (asks : s.asks r 0x06#8 payload) :
    exec .loadHeliostat s = .next (
      if 2047 < i ∨ f.inRanges = false then s.answered r [[0x03#8]]
      else if (s.driveClass f.cls).valid = false then s.answered r [[0x22#8]]
      else if s.addressTaken i f.line f.addr then s.answered r [[0x23#8]]
      else if (s.helio i).reserved then s.answered r [[0x13#8]]
      else (acceptLoad i (({ st := .idle } : Helio).withStatic f) s).answered r [[0x00#8]]) := by
  have ranges : (({ st := .idle } : Helio).withStatic f).inRanges = f.inRanges := rfl
  have place : (({ st := .idle } : Helio).withStatic f).cls = f.cls ∧ (({ st := .idle } : Helio).withStatic f).line = f.line
      ∧ (({ st := .idle } : Helio).withStatic f).addr = f.addr := ⟨rfl, rfl, rfl⟩
  obtain ⟨cls, line, addr⟩ := place
  refine (request_asks asks (by simp [length]) rfl loadHeliostatHandler).trans ?_
  rw [loadHeliostatHandler, index, read]
  dsimp only
  rw [ranges, cls, line, addr]
  split_ifs <;> rfl

theorem helioPayload_length (i : Nat) (f : Helio) : (helioPayload i f).length = 27 := by simp [helioPayload]

theorem reserved_iff {h : Helio} : h.reserved = true ↔ h.primary.isSome ∨ h.transfer.isSome := by simp [Helio.reserved]

/-- Settles O18, by the checks in order. -/
theorem loadHeliostatChecks : Obligations.LoadHeliostatChecks := by
  unfold Obligations.LoadHeliostatChecks
  intro s r i f index line addr cls standby weight pivot offsets asks
  obtain ⟨atIndex, read⟩ := readHelioFields_helioPayload i f index line addr cls standby weight pivot offsets
  rw [exec_loadHeliostat_of_asks atIndex read (helioPayload_length i f) asks]
  have fields (inTable : i ≤ 2047) (ok : f.inRanges = true) : ¬(2047 < i ∨ f.inRanges = false) := by
    simp [ok, inTable]
  refine ⟨fun refused => by rw [if_pos refused], fun inTable ok invalid => by rw [if_neg (fields inTable ok), if_pos invalid],
    fun inTable ok valid taken => ?taken, fun inTable ok valid free held => ?reserved⟩
  all_goals rw [if_neg (fields inTable ok), if_neg (by simp [valid] : ¬(s.driveClass f.cls).valid = false)]
  case taken => rw [if_pos ((addressTaken_iff s i f.line f.addr).mpr taken)]
  case reserved =>
    have untaken : ¬s.addressTaken i f.line f.addr = true := by
      rw [addressTaken_iff]
      rintro ⟨j, inTable, other, occupied, same⟩
      exact free j inTable other occupied same
    rw [if_neg untaken, if_pos (reserved_iff.mpr held)]

/-! ## Polls made void and targets forgotten (R38, R41, R113) -/

/-- The lines of t are those of s with the polls to record i void and the last carried targets of some places forgotten. -/
def State.Forgets (s t : State) (i : Nat) (place : Nat → Nat → Prop) : Prop :=
  ∀ n < Config.nLine,
    t.line n = { s.line n with
      poll := (s.line n).poll.map fun p => if p.helio = i then { p with void := true } else p, carried := (t.line n).carried }
    ∧ ∀ a < Config.nAddr, (place n a → (t.line n).carried[a]?.getD none = none)
      ∧ (¬place n a → (t.line n).carried[a]?.getD none = (s.line n).carried[a]?.getD none)

theorem State.Forgets.voidPolls (i : Nat) (s : State) : s.Forgets (voidPolls i s) i fun _ _ => False := by
  intro n _
  rw [line_voidPolls]
  exact ⟨rfl, fun a _ => ⟨False.elim, fun _ => rfl⟩⟩

/-- The last carried targets after one was forgotten. -/
theorem carried_forgetCarried {n a m b : Nat} (inTable : m < Config.nLine) (inLine : b < Config.nAddr) (s : State) :
    ((forgetCarried n a s).line m).carried[b]?.getD none = if m = n ∧ b = a then none else (s.line m).carried[b]?.getD none := by
  unfold forgetCarried
  rw [line_setLine]
  by_cases same : n = m ∧ n < Config.nLine
  · obtain ⟨rfl, -⟩ := same
    rw [if_pos ⟨rfl, inTable⟩]
    refine (getD_setIfInBounds ..).trans ?_
    by_cases here : a = b
    · subst here
      rw [if_pos ⟨rfl, inLine⟩, if_pos ⟨rfl, rfl⟩]
    · rw [if_neg fun h => here h.1, if_neg fun h => here h.2.symm]
  · rw [if_neg same, if_neg]
    rintro ⟨rfl, -⟩
    exact same ⟨rfl, inTable⟩

theorem State.Forgets.forgetCarried {s t : State} {i : Nat} {place : Nat → Nat → Prop} (left : s.Forgets t i place) (l a : Nat) :
    s.Forgets (forgetCarried l a t) i fun n b => (n = l ∧ b = a) ∨ place n b := by
  intro n inTable
  obtain ⟨line, forgotten⟩ := left n inTable
  refine ⟨?_, fun b inLine => ?_⟩
  · obtain ⟨carried, e⟩ := line_forgetCarried l a n t
    rw [e, line]
  · rw [carried_forgetCarried inTable inLine]
    obtain ⟨gone, stays⟩ := forgotten b inLine
    refine ⟨fun here => ?_, fun elsewhere => ?_⟩
    · split
      · rfl
      · rename_i other
        exact gone (here.resolve_left other)
    · rw [if_neg fun here => elsewhere (.inl here), stays fun here => elsewhere (.inr here)]

/-! ## The record loaded -/

/-- In the stow modes a loaded record is CLEAR with the STOW of its class pending (R40). -/
def Helio.inStow (c : DriveClass) (h : Helio) : Helio :=
  { h with st := .clear, lag := if h.st = .clear then h.lag else 0, pendingT := some (stowTarget c) }

theorem toState_clear (h : Helio) : h.toState .clear = { h with st := .clear, lag := if h.st = .clear then h.lag else 0 } := by
  unfold Helio.toState
  split
  · rename_i clear
    rw [← clear]
  · rfl

/-- A STOW offer is posted over any pending target (R35). -/
theorem post_stowTarget (d : Nat) (c : DriveClass) (h : Helio) : h.post d (stowTarget c) = { h with pendingT := some (stowTarget c) } :=
  post_prevails rfl fun p _ => by
    change p.kind.rank ≤ TargetKind.stow.rank
    cases p.kind <;> decide

theorem loadInStow_of_running {i : Nat} {s : State} (mode : s.sup.mode = .halted ∨ s.sup.mode = .tracking) : loadInStow i s = s := by
  unfold loadInStow
  obtain mode | mode := mode <;> rw [mode]

theorem loadInStow_of_stow {i : Nat} {s : State} (mode : s.sup.mode = .stowing ∨ s.sup.mode = .stowed ∨ s.sup.mode = .quiet)
    (inTable : i < Config.nHelio) : ∃ t : State, loadInStow i s = t ∧ t.helio i = (s.helio i).inStow (s.classOf i)
      ∧ { t with helios := s.helios } = s := by
  have record : (s.setHelio i ((s.helio i).toState .clear)).helio i = (s.helio i).toState .clear := helio_setHelio_self _ _ _ inTable
  have cls : (s.setHelio i ((s.helio i).toState .clear)).classOf i = s.classOf i := by
    rw [State.classOf, record, toState_clear]
    rfl
  have offered : loadInStow i s =
      offer i (stowTarget (s.classOf i)) (s.setHelio i ((s.helio i).toState .clear)) := by
    rw [← cls]
    unfold loadInStow
    obtain mode | mode | mode := mode <;> rw [mode]
  have posted := offer_occupied (s.setHelio i ((s.helio i).toState .clear)) i (stowTarget (s.classOf i))
    (by rw [record, toState_clear]; exact HState.noConfusion)
  refine ⟨_, offered.trans posted, ?_, rfl⟩
  rw [helio_setHelio_self _ _ _ inTable, record, post_stowTarget, toState_clear]
  rfl

/-- The record that LOAD_HELIOSTAT leaves, in the field mode. -/
theorem loadInStow_record {i : Nat} {s : State} (inTable : i < Config.nHelio) :
    (s.sup.mode = .halted ∨ s.sup.mode = .tracking → (loadInStow i s).helio i = s.helio i)
    ∧ (s.sup.mode = .stowing ∨ s.sup.mode = .stowed ∨ s.sup.mode = .quiet →
        (loadInStow i s).helio i = (s.helio i).inStow (s.classOf i))
    ∧ ((loadInStow i s).helio i).static = (s.helio i).static ∧ { loadInStow i s with helios := s.helios } = s := by
  have split_ : (s.sup.mode = .halted ∨ s.sup.mode = .tracking) ∨ (s.sup.mode = .stowing ∨ s.sup.mode = .stowed ∨ s.sup.mode = .quiet) := by
    cases s.sup.mode <;> simp
  obtain running | stow := split_
  · rw [loadInStow_of_running running]
    refine ⟨fun _ => rfl, fun stow => ?_, rfl, rfl⟩
    obtain running | running := running <;> simp [running] at stow
  · obtain ⟨t, e, record, rest⟩ := loadInStow_of_stow stow inTable
    rw [e]
    refine ⟨fun running => ?_, fun _ => record, by rw [record]; rfl, rest⟩
    obtain running | running := running <;> simp [running] at stow

/-- A load at the same line and address keeps the dynamic fields, its targets refitted when the class changes (R39). -/
theorem loadKept_record {i : Nat} {f : Helio} {s : State} (inTable : i < Config.nHelio) : (loadKept i f s).helio i =
    (if (s.helio i).cls = f.cls then s.helio i else (s.helio i).refit (s.driveClass f.cls)).withStatic f := by
  unfold loadKept
  rw [helio_setHelio_self _ _ _ inTable]
  split <;> rfl

/-- A load of a new place makes the polls in flight void and forgets the targets of the old and new place (R38, R113). -/
theorem loadFresh_lines (i : Nat) (f : Helio) (s : State) : s.Forgets (loadFresh i f s) i fun n a =>
    (n = f.line ∧ a = f.addr) ∨ ((s.helio i).occupied = true ∧ n = (s.helio i).line ∧ a = (s.helio i).addr) := by
  unfold loadFresh
  dsimp only
  have void := State.Forgets.voidPolls i s
  cases occupied : (s.helio i).occupied
  · exact fun n inTable => by simpa using void.forgetCarried f.line f.addr n inTable
  · exact fun n inTable => by
      simpa using (void.forgetCarried (s.helio i).line (s.helio i).addr).forgetCarried f.line f.addr n inTable

/-- A line whose ring was empty chooses a poll when a record of a new place joins it (R113). -/
theorem acceptLoad_eq (i : Nat) (f : Helio) (s : State) :
    (((s.helio i).occupied = true ∧ (s.helio i).line = f.line ∧ (s.helio i).addr = f.addr) →
      acceptLoad i f s = stowTest (loadInStow i (loadKept i f s)))
    ∧ (¬((s.helio i).occupied = true ∧ (s.helio i).line = f.line ∧ (s.helio i).addr = f.addr) →
      (s.ring f.line ≠ [] → acceptLoad i f s = stowTest (loadInStow i (loadFresh i f s)))
      ∧ (s.ring f.line = [] → acceptLoad i f s = stowTest (choosePoll f.line (loadInStow i (loadFresh i f s))))) := by
  unfold acceptLoad
  dsimp only
  refine ⟨fun same => ?_, fun fresh => ?_⟩
  · obtain ⟨occupied, line, addr⟩ := same
    have kept : (!(s.helio i).occupied || (s.helio i).line != f.line || (s.helio i).addr != f.addr) = false := by
      simp [occupied, line, addr]
    rw [kept]
    rfl
  · have moved : (!(s.helio i).occupied || (s.helio i).line != f.line || (s.helio i).addr != f.addr) = true := by
      by_contra kept
      apply fresh
      simpa [and_assoc] using kept
    rw [moved]
    refine ⟨fun members => ?_, fun none_ => ?_⟩
    · rw [List.isEmpty_eq_false_iff.mpr members]
      rfl
    · rw [none_]
      rfl

/-! ## The statement -/

theorem inRanges_fits {f : Helio} (ok : f.inRanges = true) : f.line < 256 ∧ f.cls < 256 ∧ f.standby < 256
    ∧ (∀ v ∈ [f.pivot.x, f.pivot.y, f.pivot.z], -2147483648 ≤ v ∧ v ≤ 2147483647)
    ∧ (∀ v ∈ [f.azCal, f.elCal, f.aimOff], -32768 ≤ v ∧ v ≤ 32767) := by
  simp only [Helio.inRanges, inRange, Bool.and_eq_true, decide_eq_true_eq] at ok
  simp only [List.forall_mem_cons, List.not_mem_nil, false_implies, implies_true, and_true]
  omega

/-- A load accepted at the place the record has (R39, R40). -/
theorem loadKept_accepted {i : Nat} {f : Helio} {s : State} (inTable : i < Config.nHelio) :
    ∃ u : State, loadInStow i (loadKept i f s) = u ∧ (u.helio i).static = f.static ∧ (∀ j, j ≠ i → u.helio j = s.helio j)
      ∧ (∀ kept : Helio, kept = (if (s.helio i).cls = f.cls then s.helio i else (s.helio i).refit (s.driveClass f.cls)) →
          (s.sup.mode = .halted ∨ s.sup.mode = .tracking → u.helio i = kept.withStatic f)
          ∧ (s.sup.mode = .stowing ∨ s.sup.mode = .stowed ∨ s.sup.mode = .quiet →
              u.helio i = (kept.withStatic f).inStow (s.driveClass f.cls)))
      ∧ u.lines = s.lines ∧ { u with helios := s.helios } = s := by
  obtain ⟨running, stow, static, rest⟩ := loadInStow_record (i := i) (s := loadKept i f s) inTable
  have record := loadKept_record (f := f) (s := s) inTable
  have cls : (loadKept i f s).classOf i = s.driveClass f.cls := by
    rw [State.classOf, record]
    rfl
  refine ⟨_, rfl, by rw [static, record]; rfl, fun j other => ?_, fun kept e => ?_, ?_, ?_⟩
  · rw [loadInStow_helio_ne other, loadKept, helio_setHelio_ne _ _ _ _ other]
  · rw [e, ← record]
    exact ⟨running, fun mode => by rw [stow mode, cls]⟩
  · have lines := congrArg State.lines rest
    exact lines
  · exact congrArg (fun t : State => { t with helios := s.helios }) rest

/-- A load accepted at a new place (R38, R40). -/
theorem loadFresh_accepted {i : Nat} {f : Helio} {s : State} (inTable : i < Config.nHelio) :
    ∃ u : State, loadInStow i (loadFresh i f s) = u ∧ (u.helio i).static = f.static ∧ (∀ j, j ≠ i → u.helio j = s.helio j)
      ∧ (s.sup.mode = .halted ∨ s.sup.mode = .tracking → u.helio i = f)
      ∧ (s.sup.mode = .stowing ∨ s.sup.mode = .stowed ∨ s.sup.mode = .quiet → u.helio i = f.inStow (s.driveClass f.cls))
      ∧ s.Forgets u i (fun n a => (n = f.line ∧ a = f.addr)
          ∨ ((s.helio i).occupied = true ∧ n = (s.helio i).line ∧ a = (s.helio i).addr))
      ∧ { u with helios := s.helios, lines := s.lines } = s := by
  obtain ⟨running, stow, static, rest⟩ := loadInStow_record (i := i) (s := loadFresh i f s) inTable
  obtain ⟨lines, e⟩ := State.Moves.loadFresh_eq i f s
  have record : (loadFresh i f s).helio i = f := by rw [e, helio_setHelio_self _ _ _ inTable]
  have cls : (loadFresh i f s).classOf i = s.driveClass f.cls := by
    rw [State.classOf, record, e]
    rfl
  have mode : (loadFresh i f s).sup.mode = s.sup.mode := by rw [e]; rfl
  rw [mode, record] at running stow
  rw [cls] at stow
  refine ⟨_, rfl, by rw [static, record], fun j other => ?_, running, stow, fun n inLines => ?_, ?_⟩
  · rw [loadInStow_helio_ne other, e, helio_setHelio_ne _ _ _ _ other]
    rfl
  · have same := congrArg (fun t : State => t.line n) rest
    have left := loadFresh_lines i f s n inLines
    rw [← same] at left
    exact left
  · refine (congrArg (fun t : State => { t with helios := s.helios, lines := s.lines }) rest).trans ?_
    rw [e]
    rfl

/-- REMOVE_HELIOSTAT's refusals in R41's order, and the record removed. -/
theorem exec_removeHeliostat_of_asks {s : State} {r : Req} {i : Nat} (fits : i < 65536) (asks : s.asks r 0x07#8 (natBytes 2 i)) :
    exec .removeHeliostat s = .next (
      if 2047 < i then s.answered r [[0x03#8]]
      else if (s.helio i).reserved then s.answered r [[0x13#8]]
      else if (s.helio i).occupied then (removeRecord i s).answered r [[0x00#8]]
      else s.answered r [[0x00#8]]) := by
  refine (request_asks asks rfl rfl removeHeliostatHandler).trans ?_
  rw [removeHeliostatHandler, fieldNat_all (by omega)]
  split_ifs <;> rfl

/-- The record removed: VACANT, its polls in flight void, its last carried target forgotten (R41, R113). -/
theorem removeRecord_removed {i : Nat} (s : State) (inTable : i < Config.nHelio) : ∃ u : State, removeRecord i s = stowTest u
    ∧ u.helio i = {} ∧ (∀ j, j ≠ i → u.helio j = s.helio j)
    ∧ s.Forgets u i (fun n a => n = (s.helio i).line ∧ a = (s.helio i).addr)
    ∧ { u with helios := s.helios, lines := s.lines } = s := by
  refine ⟨_, rfl, helio_setHelio_self _ _ _ inTable, fun j other => (helio_setHelio_ne _ _ _ _ other).trans rfl, ?_, rfl⟩
  exact fun n inLines => by simpa using (State.Forgets.voidPolls i s).forgetCarried (s.helio i).line (s.helio i).addr n inLines

/-- Settles O19: the load accepted at the record's own place and at a new one, and the removal. -/
theorem loadAndRemoveResult : Obligations.LoadAndRemoveResult := by
  unfold Obligations.LoadAndRemoveResult
  refine ⟨fun s r i f same inTable addr weight ok asks valid free noPrimary noTransfer place => ?load,
    fun s r i fits asks => ?remove⟩
  case load =>
    obtain ⟨line, cls, standby, pivot, offsets⟩ := inRanges_fits ok
    obtain ⟨atIndex, read⟩ := readHelioFields_helioPayload i f (by omega) line addr cls standby weight pivot offsets
    have untaken : ¬s.addressTaken i f.line f.addr = true := by
      rw [addressTaken_iff]
      rintro ⟨j, known, other, occupied, here⟩
      exact free j known other occupied here
    have row := exec_loadHeliostat_of_asks atIndex read (helioPayload_length i f) asks
    rw [if_neg (by simp [ok, inTable] : ¬(2047 < i ∨ f.inRanges = false)), if_neg (by simp [valid] : ¬(s.driveClass f.cls).valid = false),
      if_neg untaken, if_neg (by simp [Helio.reserved, noPrimary, noTransfer])] at row
    rw [row]
    have known : i < Config.nHelio := Nat.lt_succ_of_le inTable
    obtain ⟨kept, fresh⟩ := acceptLoad_eq i (({ st := .idle } : Helio).withStatic f) s
    subst place
    by_cases here : (s.helio i).occupied = true ∧ (s.helio i).line = f.line ∧ (s.helio i).addr = f.addr
    · obtain ⟨u, e, static, others, record, lines, rest⟩ := loadKept_accepted (f := ({ st := .idle } : Helio).withStatic f) (s := s) known
      refine ⟨u, fun _ => by rw [kept here, e], fun elsewhere => absurd here elsewhere, static, others, fun old same _ => ?_,
        fun _ => lines, fun elsewhere => absurd here elsewhere, ?_⟩
      · exact record old (same here)
      · exact congrArg (fun t : State => { t with lines := s.lines }) rest
    · obtain ⟨u, e, static, others, running, stow, lines, rest⟩ := loadFresh_accepted (f := ({ st := .idle } : Helio).withStatic f) (s := s) known
      obtain ⟨members, alone⟩ := fresh here
      refine ⟨u, fun joined => ?_, fun _ empty => by rw [alone empty, e]; rfl, static, others, fun old _ idle => ?_,
        fun same => absurd same here, fun _ n inLines => ?_, rest⟩
      · rw [members (joined.resolve_left here), e]
      · rw [idle here]
        exact ⟨running, stow⟩
      · obtain ⟨line, forgotten⟩ := lines n inLines
        refine ⟨line, fun a inLine => ?_⟩
        obtain ⟨gone, stays⟩ := forgotten a inLine
        split
        · rename_i left
          exact gone left
        · rename_i left
          exact stays left
  case remove =>
    rw [exec_removeHeliostat_of_asks fits asks]
    refine ⟨fun past => by rw [if_pos past], fun inTable held => ?reserved, fun inTable noPrimary noTransfer vacant => ?vacant,
      fun inTable noPrimary noTransfer occupied => ?removed⟩
    all_goals rw [if_neg (Nat.not_lt.mpr inTable)]
    case reserved => rw [if_pos (reserved_iff.mpr held)]
    all_goals rw [if_neg (by simp [Helio.reserved, noPrimary, noTransfer])]
    case vacant => rw [if_neg (by simp [Helio.occupied, vacant])]
    case removed =>
      rw [if_pos (by simpa [Helio.occupied] using occupied)]
      obtain ⟨u, e, record, others, lines, rest⟩ := removeRecord_removed s (Nat.lt_succ_of_le inTable)
      refine ⟨u, by rw [e], record, others, fun n inLines => ?_, rest⟩
      obtain ⟨line, forgotten⟩ := lines n inLines
      refine ⟨line, fun a inLine => ?_⟩
      obtain ⟨gone, stays⟩ := forgotten a inLine
      split
      · rename_i left
        exact gone left
      · rename_i left
        exact stays left

end Sys2Proof.Machine
end


section
/-! Requests taken in several accesses (R22, R182), and the duty, release and FORGET of records (O20, O21). -/

namespace Sys2Proof.Machine

/-! ## Accesses of one request -/

/-- The arbiter does nothing exactly while the transmitter is busy, or nothing is ready and nothing due. -/
theorem arbiter_fixed_iff (s : State) : arbiter s = s ↔ s.link.tx.isSome ∨ (s.link.ready = [] ∧ firstDue s.notices = none) := by
  constructor
  · intro rests
    by_contra acts
    obtain ⟨free, work⟩ := not_or.mp acts
    have started : (arbiter s).link.tx.isSome := by
      unfold arbiter
      rw [if_neg free]
      split
      · rfl
      · rename_i noReply
        split
        · rename_i none_
          exact absurd ⟨noReply, none_⟩ work
        · rfl
    rw [rests] at started
    exact free started
  · rintro (busy | ⟨noReply, none_⟩)
    · exact arbiter_busy busy
    · unfold arbiter
      split
      · rfl
      · rw [noReply, none_]

/-- An arbiter that rests still does so after an access of a request that is not its last. -/
theorem arbiter_access {s t : State} (rests : arbiter s = s) (link : t.link = s.link) (notices : t.notices = s.notices)
    (w : Option Work) : arbiter (t.setWork w) = t.setWork w := by
  rw [arbiter_fixed_iff, ← link, ← notices] at rests
  exact (arbiter_fixed_iff _).mpr rests

theorem arbiter_recordAccess {s : State} (rests : arbiter s = s) (i : Nat) (h : Helio) (w : Option Work) :
    arbiter ((s.setHelio i h).setWork w) = (s.setHelio i h).setWork w :=
  arbiter_access (t := s.setHelio i h) rests rfl rfl w

section Row
variable {s t : State} {r : Req} {kind : Byte} {payload : List Byte} {lengthOk : Nat → Bool} {first : List Byte → State → State × Served}
  {segments : List (List Byte)} {w : Work}

/-- A first access that is the last answers the request. -/
theorem requestByAccess_only (asks : s.asks r kind payload) (length : lengthOk payload.length = true) (fresh : r.work = none)
    (served : first payload s = (t, .last segments)) (port : t.nextRequest = s.nextRequest) :
    requestByAccess kind lengthOk first s = .next (t.answered r segments) := by
  rw [requestByAccess_first asks length fresh, served, serveAccess_last, setWork_none (port.trans asks.2.1) fresh]

/-- A first access that leaves work. -/
theorem requestByAccess_begins (asks : s.asks r kind payload) (length : lengthOk payload.length = true) (fresh : r.work = none)
    (served : first payload s = (t, .more w)) :
    requestByAccess kind lengthOk first s = .next (arbiter (t.setWork (some w))) := by
  rw [requestByAccess_first asks length fresh, served, serveAccess_more]

/-- A later access that leaves work. -/
theorem requestByAccess_goesOn {v : Work} (asks : s.asks r kind payload) (length : lengthOk payload.length = true)
    (left : r.work = some v) (served : serveWork v s = (t, .more w)) :
    requestByAccess kind lengthOk first s = .next (arbiter (t.setWork (some w))) := by
  rw [requestByAccess_next asks length left, served, serveAccess_more]

/-- A later access that is the last answers the request. -/
theorem requestByAccess_ends {v : Work} (asks : s.asks r kind payload) (length : lengthOk payload.length = true)
    (left : r.work = some v) (served : serveWork v s = (t, .last segments)) :
    requestByAccess kind lengthOk first s = .next ((t.setWork none).answered r segments) := by
  rw [requestByAccess_next asks length left, served, serveAccess_last]

/-- The request asked for still is when work is left of it. -/
theorem State.asks.left (t : State) (asks : s.asks r kind payload) (running : t.inReset = s.inReset) (port : t.nextRequest = s.nextRequest)
    (w : Option Work) : (t.setWork w).asks { r with work := w } kind payload := by
  obtain ⟨live, next, named, carried⟩ := asks
  exact ⟨running.trans live, nextRequest_setWork w (port.trans next), named, carried⟩

end Row

/-- A command repeated once more is taken first. -/
theorem runCommands_replicate_succ {c : Instr} {s t : State} (n : Nat) (taken : exec c s = .next t) :
    runCommands (List.replicate (n + 1) c) s = runCommands (List.replicate n c) t := by
  rw [List.replicate_succ, runCommands, taken]

/-! ## SET_DUTY (R42) -/

theorem dutyOf_code (d : Duty) : dutyOf d.code = some d := by cases d <;> rfl

/-- SET_DUTY with a code that names no duty. -/
theorem exec_setDuty_of_undefined {s : State} {r : Req} {i d : Nat} (fits : d < 256)
    (asks : s.asks r 0x08#8 (natBytes 2 i ++ byte1 d)) (undefined : dutyOf d = none) :
    exec .setDuty s = .next (s.answered r [[0x03#8]]) := by
  have carried : fieldNat (natBytes 2 i ++ byte1 d) 2 1 = d := (fieldNat_append _ _ _ _ le_rfl).trans (fieldNat_byte1_all fits)
  refine (request_asks asks (by simp) rfl setDutyHandler).trans ?_
  rw [setDutyHandler, carried, undefined]
  rfl

/-- SET_DUTY's refusals in R42's order, and the duty replaced. -/
theorem exec_setDuty_of_asks {s : State} {r : Req} {i d : Nat} {duty : Duty} (index : i < 65536) (fits : d < 256)
    (asks : s.asks r 0x08#8 (natBytes 2 i ++ byte1 d)) (named : dutyOf d = some duty) :
    exec .setDuty s = .next (
      if 2047 < i then s.answered r [[0x03#8]]
      else if (s.helio i).occupied = false then s.answered r [[0x11#8]]
      else (s.setHelio i { s.helio i with duty := duty }).answered r [[0x00#8]]) := by
  have atIndex : fieldNat (natBytes 2 i ++ byte1 d) 0 2 = i := fieldNat_zero _ (by omega)
  have carried : fieldNat (natBytes 2 i ++ byte1 d) 2 1 = d := (fieldNat_append _ _ _ _ le_rfl).trans (fieldNat_byte1_all fits)
  refine (request_asks asks (by simp) rfl setDutyHandler).trans ?_
  rw [setDutyHandler, atIndex, carried, named]
  dsimp only
  split_ifs <;> rfl

/-! ## RELEASE_HELIOSTAT (R43) -/

theorem releaseRecord_more {j : Nat} (before : j < 2047) (s : State) :
    releaseRecord j s = (s.setHelio j { s.helio j with latched := false }, .more (.release (j + 1))) := by
  unfold releaseRecord
  rw [if_pos (by simp only [Config.nHelio]; omega)]
  rfl

theorem releaseRecord_last (s : State) :
    releaseRecord 2047 s = (s.setHelio 2047 { s.helio 2047 with latched := false }, .last [[0x00#8]]) := rfl

/-- The accesses of a release of every record that are left clear the latches from a record on. -/
theorem runCommands_release (k : Nat) : ∀ (s : State) (r : Req) (payload : List Byte), k ≤ 2047 → s.asks r 0x09#8 payload →
    payload.length = 2 → r.work = some (.release (2047 - k)) → arbiter s = s →
    ∃ u : State, runCommands (List.replicate (k + 1) .releaseHeliostat) s = .next (u.answered r [[0x00#8]])
      ∧ (∀ j < Config.nHelio, u.helio j = if 2047 - k ≤ j then { s.helio j with latched := false } else s.helio j)
      ∧ { u with helios := s.helios } = s.setWork none := by
  induction k with
  | zero =>
    intro s r payload _ asks length left _
    have taken : exec .releaseHeliostat s = _ := requestByAccess_ends asks (by simp [length]) left (releaseRecord_last s)
    refine ⟨_, by rw [runCommands_replicate_succ 0 taken]; rfl, fun j inTable => ?_, rfl⟩
    rw [setWork_helio, helio_setHelio]
    simp only [Config.nHelio] at inTable ⊢
    by_cases last : j = 2047
    · simp [last]
    · rw [if_neg (by omega), if_neg (by omega)]
  | succ k ih =>
    intro s r payload bound asks length left rests
    have before : 2047 - (k + 1) < 2047 := by omega
    have next : 2047 - (k + 1) + 1 = 2047 - k := by omega
    have taken : exec .releaseHeliostat s = _ :=
      requestByAccess_goesOn asks (by simp [length]) left (releaseRecord_more before s)
    rw [next, arbiter_recordAccess rests] at taken
    obtain ⟨u, run, records, rest⟩ := ih _ { r with work := some (.release (2047 - k)) } payload (by omega)
      (asks.left (s.setHelio _ _) rfl rfl _) length rfl (arbiter_recordAccess rests _ _ _)
    refine ⟨u, by rw [runCommands_replicate_succ (k + 1) taken, run]; rfl, fun j inTable => ?_, ?_⟩
    · by_cases later : 2047 - k ≤ j
      · rw [records j inTable, if_pos later, if_pos (by omega), setWork_helio, helio_setHelio_ne _ _ _ _ (by omega)]
      · rw [records j inTable, if_neg later, setWork_helio]
        by_cases here : j = 2047 - (k + 1)
        · subst here
          rw [helio_setHelio_self _ _ _ inTable, if_pos le_rfl]
        · rw [helio_setHelio_ne _ _ _ _ here, if_neg (by omega)]
    · have rest := congrArg (fun t : State => { t with helios := s.helios }) rest
      rw [setWork_setWork] at rest
      exact rest

theorem releaseHeliostatFirst_of_index {i : Nat} (fits : i < 65536) (s : State) : releaseHeliostatFirst (natBytes 2 i) s =
    if i = 0xFFFF then releaseRecord 0 s
    else if 2047 < i then (s, .last (bare .badField)) else (unlatch i s, .last (bare .ok)) := by
  rw [releaseHeliostatFirst, fieldNat_all (by omega)]

/-- Settles O20: SET_DUTY by its row, RELEASE_HELIOSTAT by its first access and the accesses left. -/
theorem dutyAndReleaseResult : Obligations.DutyAndReleaseResult := by
  unfold Obligations.DutyAndReleaseResult
  refine ⟨fun s r i d index fits asks => ?duty, fun s r i fits asks => ?release⟩
  case duty =>
    have named (defined : d ≤ 3) : ∃ duty, dutyOf d = some duty := by
      interval_cases d <;> exact ⟨_, rfl⟩
    refine ⟨fun refused => ?_, fun inTable defined vacant => ?_, fun duty inTable code occupied => ?_⟩
    · rcases Nat.lt_or_ge 3 d with undefined | defined
      · exact exec_setDuty_of_undefined fits asks (dutyOf_of_gt undefined)
      · obtain ⟨duty, code⟩ := named defined
        rw [exec_setDuty_of_asks index fits asks code, if_pos (by omega)]
    · obtain ⟨duty, code⟩ := named defined
      rw [exec_setDuty_of_asks index fits asks code, if_neg (Nat.not_lt.mpr inTable), if_pos (by simp [Helio.occupied, vacant])]
    · rw [exec_setDuty_of_asks index fits asks (code ▸ dutyOf_code duty), if_neg (Nat.not_lt.mpr inTable),
        if_neg (by simp [Helio.occupied, occupied])]
  case release =>
    have first := releaseHeliostatFirst_of_index fits s
    have length : ((natBytes 2 i).length == 2) = true := by simp
    have all (named : i = 0xFFFF) : releaseHeliostatFirst (natBytes 2 i) s =
        (s.setHelio 0 { s.helio 0 with latched := false }, .more (.release 1)) := by
      rw [first, if_pos named, releaseRecord_more (by omega)]
    refine ⟨fun fresh past notAll => ?past, fun fresh inTable => ?one, fun fresh named => ?first, fun j left => ⟨fun before => ?next,
      fun last => ?last⟩, fun fresh named rests => ?all⟩
    case past =>
      rw [if_neg notAll, if_pos past] at first
      exact requestByAccess_only asks length fresh first rfl
    case one =>
      rw [if_neg (by omega), if_neg (by omega)] at first
      exact requestByAccess_only asks length fresh first rfl
    case first => exact requestByAccess_begins asks length fresh (all named)
    case next => exact requestByAccess_goesOn asks length left (releaseRecord_more before s)
    case last =>
      subst last
      exact requestByAccess_ends asks length left (releaseRecord_last s)
    case all =>
      have taken : exec .releaseHeliostat s = _ := requestByAccess_begins asks length fresh (all named)
      rw [arbiter_recordAccess rests] at taken
      obtain ⟨u, run, records, rest⟩ := runCommands_release 2046 _ { r with work := some (.release 1) } _ (by omega) (asks.left (s.setHelio _ _) rfl rfl _)
        (by simp) rfl (arbiter_recordAccess rests _ _ _)
      refine ⟨u, by rw [runCommands_replicate_succ 2047 taken, run]; rfl, fun j inTable => ?_, ?_⟩
      · rw [records j inTable, setWork_helio, helio_setHelio]
        by_cases zero : j = 0
        · subst zero
          rfl
        · rw [if_pos (by omega), if_neg fun h => zero h.1.symm]
      · have rest := congrArg (fun t : State => { t with helios := s.helios }) rest
        rw [setWork_setWork] at rest
        exact rest.trans (setWork_none asks.2.1 fresh)

/-! ## FORGET_HELIOSTAT (R44, R83 to R85) -/

/-- A slot in the drained list stays there as a reservation ceases to name one, and DRAINED stays pending. -/
theorem decUser_keepsDrained {s : State} {m : Nat} (k : Nat) :
    (m ∈ s.drained → m ∈ (decUser k s).drained)
    ∧ (inSet s.notices.pend .drained = true → inSet (decUser k s).notices.pend .drained = true) := by
  obtain ⟨last, others, -, -⟩ := decUser_slotLeft s k
  by_cases freed : (s.entry k).st = .draining ∧ (s.entry k).users ≤ 1
  · obtain ⟨-, drained, notices⟩ := last freed
    rw [drained, notices]
    refine ⟨fun listed => ?_, fun _ => by simp [raise_pend]⟩
    split
    · exact listed
    · exact List.mem_append_left _ listed
  · obtain ⟨-, drained, notices⟩ := others freed
    rw [drained, notices]
    exact ⟨id, id⟩

/-- So it does through a release. -/
theorem releaseSums_keepsDrained {s : State} {k : Nat} (fl : Bool) (r : Option Reservation) :
    (k ∈ s.drained → k ∈ (releaseSums fl r s).drained)
    ∧ (inSet s.notices.pend .drained = true → inSet (releaseSums fl r s).notices.pend .drained = true) := by
  cases r with
  | none => exact ⟨id, id⟩
  | some r =>
    unfold releaseSums
    exact decUser_keepsDrained (s := s.setZone r.zone _) r.slot

/-- The users of a slot after every reservation of a record was released (R58, R84). -/
theorem releaseAll_users {s : State} {i k : Nat} (inMap : k < Config.nSlot) :
    ((releaseAll i s).entry k).users = (s.entry k).users - namesOf k (s.helio i).claims := by
  rw [releaseAll_sums, (releaseSums_entry _ _ _ _ inMap).1, (releaseSums_entry _ _ _ _ inMap).1]
  have claims : (s.helio i).claims = (s.helio i).primary.toList ++ (s.helio i).transfer.toList := rfl
  rw [claims, namesOf_append, Nat.sub_add_eq]
  rfl

/-- A slot whose state changes by a release of every reservation drains (R61). -/
theorem releaseAll_drained {s : State} {i k : Nat} (inMap : k < Config.nSlot)
    (changed : ((releaseAll i s).entry k).st ≠ (s.entry k).st) :
    (s.entry k).st = .draining ∧ ((releaseAll i s).entry k).st = .free ∧ ((releaseAll i s).entry k).users = 0
      ∧ k ∈ (releaseAll i s).drained ∧ inSet (releaseAll i s).notices.pend .drained = true := by
  rw [releaseAll_sums] at changed ⊢
  have start : (s.setHelio i (s.helio i).released).entry k = s.entry k := rfl
  obtain ⟨-, first⟩ := releaseSums_entry (s.setHelio i (s.helio i).released) true (s.helio i).primary k inMap
  obtain ⟨users, second⟩ := releaseSums_entry (releaseSums true (s.helio i).primary (s.setHelio i (s.helio i).released)) true
    (s.helio i).transfer k inMap
  rw [start] at first
  by_cases freed : ((releaseSums true (s.helio i).primary (s.setHelio i (s.helio i).released)).entry k).st = (s.entry k).st
  · rw [← freed] at changed ⊢
    exact second changed
  · obtain ⟨draining, free, none_, listed, pending⟩ := first freed
    obtain ⟨keepsListed, keepsPending⟩ := releaseSums_keepsDrained (k := k)
      (s := releaseSums true (s.helio i).primary (s.setHelio i (s.helio i).released)) true (s.helio i).transfer
    have stays : ((releaseSums true (s.helio i).transfer (releaseSums true (s.helio i).primary
        (s.setHelio i (s.helio i).released))).entry k).st = .free := by
      by_contra left
      rw [← free] at left
      rw [(second left).1] at free
      cases free
    exact ⟨draining, stays, by rw [users, none_, Nat.zero_sub], keepsListed listed, keepsPending pending⟩

/-- FORGET_HELIOSTAT's refusals in R44's order, and the release. -/
theorem exec_forgetHeliostat_of_asks {s : State} {r : Req} {i : Nat} (fits : i < 65536) (asks : s.asks r 0x0A#8 (natBytes 2 i)) :
    exec .forgetHeliostat s = .next (
      if 2047 < i then s.answered r [[0x03#8]]
      else if (s.helio i).st = .leaving then (releaseAll i s).answered r [[0x00#8]]
      else s.answered r [[0x11#8]]) := by
  refine (request_asks asks rfl rfl forgetHeliostatHandler).trans ?_
  rw [forgetHeliostatHandler, fieldNat_all (by omega)]
  split_ifs <;> rfl

/-- Settles O21, by the sums, users and states of the release of every reservation. -/
theorem forgetHeliostatResult : Obligations.ForgetHeliostatResult := by
  unfold Obligations.ForgetHeliostatResult
  intro s r i fits asks
  rw [exec_forgetHeliostat_of_asks fits asks]
  refine ⟨fun past => by rw [if_pos past], fun inTable other => ?_, fun inTable leaving => ?released⟩
  · rw [if_neg (Nat.not_lt.mpr inTable), if_neg other]
  case released =>
    rw [if_neg (Nat.not_lt.mpr inTable), if_pos leaving]
    have known : i < Config.nHelio := Nat.lt_succ_of_le inTable
    have all := releaseAll_allReleased s i
    have record : (releaseAll i s).helio i = { s.helio i with st := .clear, lag := 0, primary := none, transfer := none } := by
      rw [releaseAll_sums, releaseSums_helio, releaseSums_helio, helio_setHelio_self _ _ _ known, Helio.released, toState_eq]
      simp [leaving]
    rw [if_neg (by rw [leaving]; exact HState.noConfusion)] at all
    refine ⟨releaseAll i s, rfl, record, fun j other => releaseAll_helio_ne other, fun z inTable => releaseAll_zone _ _ _ inTable,
      fun k inMap => releaseAll_users inMap, fun k inMap changed => releaseAll_drained inMap changed, all, ?_, ?_⟩
    · obtain ⟨zones, entries, drained, notices, e⟩ := releaseAll_eq s i
      rw [e]
      rfl
    · obtain ⟨zones, entries, drained, notices, e⟩ := releaseAll_eq s i
      rw [e]
      rfl

end Sys2Proof.Machine
end


section
/-! Requests on the aim map and the zones, mode and permit requests, and the clearing reads (O22, O24, O25, O27 to O29). -/

namespace Sys2Proof.Machine

/-! ## LOAD_AIM and SET_ALLOWANCE (R53 to R55, R68) -/

/-- LOAD_AIM's refusals in R53's order, and the slot filled. -/
theorem exec_loadAim_of_asks {s : State} {r : Req} {k : Nat} {e : AimEntry} {payload : List Byte} (slot : fieldNat payload 0 1 = k)
    (read : readAimFields payload = some e) (length : payload.length = 20) (asks : s.asks r 0x0C#8 payload) :
    exec .loadAim s = .next (
      if 63 < k ∨ e.inRanges = false then s.answered r [[0x03#8]]
      else if e.base % e.size ≠ 0 ∨ 2048 < e.base + e.size then s.answered r [[0x21#8]]
      else if (s.entry k).st ≠ .free then s.answered r [[0x12#8]]
      else ((s.conflicting k e).elim ((s.setEntry k e).answered r [0x00#8 :: aimBytes k e])
        fun j => s.answered r [[0x20#8, BitVec.ofNat 8 j]])) := by
  refine (request_asks asks (by simp [length]) rfl loadAimHandler).trans ?_
  rw [loadAimHandler, slot, read]
  dsimp only
  split_ifs
  · rfl
  · rfl
  · rfl
  · cases s.conflicting k e <;> rfl

/-- Settles O22, by the checks in order. -/
theorem loadAimResult : Obligations.LoadAimResult := by
  unfold Obligations.LoadAimResult
  intro s r k e slot strategy base zone size enabled users aim asks
  obtain ⟨atSlot, read⟩ := readAimFields_aimPayload k e slot strategy base zone size enabled users aim
  rw [exec_loadAim_of_asks atSlot read (by simp [aimPayload]) asks]
  have lowest : s.conflicting k e = (List.range 64).find? fun j => j != k && e.conflicts (s.entry j) := by
    rw [State.conflicting, firstFrom_eq_find, List.range_eq_range']
  rw [← lowest]
  split_ifs <;> first | rfl | (cases s.conflicting k e <;> rfl)

theorem exec_setAllowance_of_asks {s : State} {r : Req} {z : Nat} {values : List Nat} (zone : z < 256) (some_ : 1 ≤ values.length)
    (few : values.length ≤ 32) (fits : ∀ v ∈ values, v < 4294967296) (asks : s.asks r 0x10#8 (allowancePayload z values)) :
    exec .setAllowance s = .next (
      if 127 < z ∨ 128 < z + values.length then s.answered r [[0x03#8]]
      else (setPending z values s).answered r [0x00#8 :: (byte1 z ++ values.flatMap fun v => natBytes 3 (min 16777215 v))]) := by
  have length : (allowancePayload z values).length = 1 + 4 * values.length := by
    simp [allowancePayload, List.length_flatMap, Nat.mul_comm]
  have lengthOk : allowanceLength (allowancePayload z values).length = true := by
    rw [length]
    simp only [allowanceLength, Bool.and_eq_true, decide_eq_true_eq, beq_iff_eq]
    omega
  have first : fieldNat (allowancePayload z values) 0 1 = z := fieldNat_byte1 _ zone
  refine (request_asks asks lengthOk rfl setAllowanceHandler).trans ?_
  rw [setAllowanceHandler, first, readValues_allowancePayload few fits]
  split_ifs <;> rfl

/-- Settles O24, by what the loop over the values writes. -/
theorem setAllowanceResult : Obligations.SetAllowanceResult := by
  unfold Obligations.SetAllowanceResult
  intro s r z values zone some_ few fits asks
  rw [exec_setAllowance_of_asks zone some_ few fits asks]
  refine ⟨fun past => by rw [if_pos past], fun inTable within => ?_⟩
  rw [if_neg (by omega)]
  obtain ⟨written, kept, rest⟩ := setPending_spec values z s within
  exact ⟨_, rfl, written, kept, rest⟩

/-! ## START and RESUME (R91, R152, R157) -/

/-- A state that has entered TRACKING starts a sweep, or waits for the one in progress (R91). -/
theorem enterTracking_spec (v : State) :
    (∀ p, v.sweep.progress = some p → enterTracking v = { v with sweep := { v.sweep with startWaiting := true } })
    ∧ (v.sweep.progress = none → v.SweepStarted (enterTracking v)) := by
  unfold enterTracking
  refine ⟨fun p going => by rw [going], fun rests => ?_⟩
  rw [rests]
  exact sweepStart_started v

/-- A change of mode from one in which no sweep timer runs (R151). -/
theorem setMode_of_still {m : Mode} {s : State} (other : s.sup.mode ≠ m) (still : s.sup.mode ≠ .tracking) :
    setMode m s = { s with sup := { s.sup with mode := m }, notices := s.notices.raise .mode } := by
  rw [setMode_ne other, if_neg still]

theorem setMode_tracking_of_still {s : State} (still : s.sup.mode ≠ .tracking) : ∃ v, setMode .tracking s = v
    ∧ v = { s with sup := { s.sup with mode := .tracking }, notices := s.notices.raise .mode } :=
  ⟨_, setMode_of_still still still, rfl⟩

theorem resumeField_of_still {s : State} (still : s.sup.mode ≠ .tracking) : ∃ v, resumeField s = enterTracking v
    ∧ v = { s with sup := { s.sup with mode := .tracking, stowPass := none }, notices := s.notices.raise .mode } := by
  obtain ⟨w, entered, e⟩ := setMode_tracking_of_still still
  refine ⟨{ w with sup := { w.sup with stowPass := none } }, ?_, by rw [e]⟩
  rw [resumeField, entered]

theorem exec_start_of_asks {s : State} {r : Req} (asks : s.asks r 0x11#8 []) : exec .start s = .next (
      if s.sup.mode ≠ .halted then s.answered r [0x10#8 :: s.modeBytes]
      else if s.sup.sunPresent = false then s.answered r [0x31#8 :: s.modeBytes]
      else (enterTracking (setMode .tracking s)).answered r [0x00#8 :: (enterTracking (setMode .tracking s)).modeBytes]) := by
  refine (request_asks asks rfl rfl startHandler).trans ?_
  unfold startHandler
  split_ifs <;> rfl

theorem exec_resume_of_stow {s : State} {r : Req} (asks : s.asks r 0x16#8 []) (stow : s.sup.mode = .stowing ∨ s.sup.mode = .stowed) :
    exec .resume s = .next (
      if s.sup.sunPresent = false then s.answered r [0x31#8 :: s.modeBytes]
      else if s.weather.stowIn.level then s.answered r [0x41#8 :: s.modeBytes]
      else if s.weather.wind ≠ .calm then s.answered r [0x40#8 :: s.modeBytes]
      else (resumeField s).answered r [0x00#8 :: (resumeField s).modeBytes]) := by
  refine (request_asks asks rfl rfl resumeHandler).trans ?_
  unfold resumeHandler
  obtain stow | stow := stow
  all_goals
    rw [stow]
    dsimp only
    split_ifs <;> rfl

theorem exec_resume_of_other {s : State} {r : Req} (asks : s.asks r 0x16#8 [])
    (other : s.sup.mode = .halted ∨ s.sup.mode = .tracking ∨ s.sup.mode = .quiet) :
    exec .resume s = .next (s.answered r [0x10#8 :: s.modeBytes]) := by
  refine (request_asks asks rfl rfl resumeHandler).trans ?_
  unfold resumeHandler
  obtain other | other | other := other
  all_goals
    rw [other]
    rfl

/-! ## QUIET and WAKE (R117, R158) -/

theorem acceptMode_eq (s : State) : acceptMode s = (s, [0x00#8 :: s.modeBytes]) := rfl

theorem refuseMode_wrongMode (s : State) : refuseMode .wrongMode s = (s, [0x10#8 :: s.modeBytes]) := rfl

theorem exec_quiet_of_asks {s : State} {r : Req} (asks : s.asks r 0x17#8 []) :
    (s.sup.mode = .halted ∨ s.sup.mode = .tracking ∨ s.sup.mode = .stowing →
      exec .quiet s = .next (s.answered r [0x10#8 :: s.modeBytes]))
    ∧ (s.sup.mode = .quiet → exec .quiet s = .next (s.answered r [0x00#8 :: s.modeBytes]))
    ∧ (s.sup.mode = .stowed → exec .quiet s = .next ((quietField s).answered r [0x00#8 :: (quietField s).modeBytes])) := by
  have row : exec .quiet s = _ := request_asks asks rfl rfl quietHandler
  rw [row]
  unfold quietHandler
  refine ⟨fun mode => ?_, fun mode => ?_, fun mode => ?_⟩
  · obtain mode | mode | mode := mode <;> simp only [mode, refuseMode_wrongMode]
  · simp only [mode, acceptMode_eq]
  · simp only [mode, acceptMode_eq]

theorem exec_wake_of_asks {s : State} {r : Req} (asks : s.asks r 0x18#8 []) :
    (s.sup.mode = .halted ∨ s.sup.mode = .tracking ∨ s.sup.mode = .stowing →
      exec .wake s = .next (s.answered r [0x10#8 :: s.modeBytes]))
    ∧ (s.sup.mode = .stowed → exec .wake s = .next (s.answered r [0x00#8 :: s.modeBytes]))
    ∧ (s.sup.mode = .quiet → exec .wake s = .next ((wakeField s).answered r [0x00#8 :: (wakeField s).modeBytes])) := by
  have row : exec .wake s = _ := request_asks asks rfl rfl wakeHandler
  rw [row]
  unfold wakeHandler
  refine ⟨fun mode => ?_, fun mode => ?_, fun mode => ?_⟩
  · obtain mode | mode | mode := mode <;> simp only [mode, refuseMode_wrongMode]
  · simp only [mode, acceptMode_eq]
  · simp only [mode, acceptMode_eq]

/-- The mode after the stow test that WAKE makes (R156, R158). -/
theorem stowTest_setStowed {s : State} (quiet : s.sup.mode = .quiet) : stowTest (setMode .stowed s) =
    { s with sup := { s.sup with mode := if s.stowHolds then .stowed else .stowing }, notices := s.notices.raise .mode } := by
  rw [setMode_of_still (by rw [quiet]; exact Mode.noConfusion) (by rw [quiet]; exact Mode.noConfusion), stowTest_eq]
  have same : State.stowHolds { s with sup := { s.sup with mode := .stowed }, notices := s.notices.raise .mode } = s.stowHolds := rfl
  rw [same]
  cases holds : s.stowHolds
  · simp [raise_idem]
  · simp

/-- The field woken from QUIET, before its lines choose (R117, R158). -/
def State.woken (s : State) : State :=
  { s with
    sup := { s.sup with mode := if s.stowHolds then .stowed else .stowing }, notices := s.notices.raise .mode
    lines := s.lines.map fun l => { l with quiet := none } }

theorem wakeField_eq {s : State} (quiet : s.sup.mode = .quiet) : wakeField s = chooseAll (List.range Config.nLine) s.woken := by
  unfold wakeField
  rw [stowTest_setStowed quiet]
  rfl

/-- What a line chooses does not depend on the other lines (R115). -/
theorem choosePoll_line_congr {n : Nat} {s t : State} (line : t.line n = s.line n) (rest : { t with lines := s.lines } = s) :
    (choosePoll n t).line n = (choosePoll n s).line n := by
  have helios : t.helios = s.helios := by rw [← rest]
  have sup : t.sup = s.sup := by rw [← rest]
  have limits : t.limits = s.limits := by rw [← rest]
  have ring : t.ring n = s.ring n := by rw [State.ring, helios]; rfl
  have helio (i : Nat) : t.helio i = s.helio i := by rw [State.helio, helios]; rfl
  have started (a i : Nat) (rr : Option Nat) : (startPoll n a i rr t).line n = (startPoll n a i rr s).line n := by
    simp only [startPoll, line_setLine, line, sup, limits, helio]
  have urgent : urgentChoice t n = urgentChoice s n := by simp only [urgentChoice, ring, line, helio]
  unfold choosePoll
  rw [line, sup, urgent, ring]
  split
  · exact line
  · split
    · exact started ..
    · split
      · exact started ..
      · exact line

/-- The lines of a list choose, each as if alone (R117, R158). -/
theorem chooseAll_line (ns : List Nat) : ∀ s : State, ns.Nodup →
    { chooseAll ns s with lines := s.lines } = s
    ∧ ∀ n, (chooseAll ns s).line n = if n ∈ ns then (choosePoll n s).line n else s.line n := by
  induction ns with
  | nil => exact fun s _ => ⟨rfl, fun n => rfl⟩
  | cons m rest ih =>
    intro s distinct
    obtain ⟨notIn, distinct⟩ := List.nodup_cons.mp distinct
    obtain ⟨l, chosen, -⟩ := choosePoll_eq m s
    obtain ⟨same, lines⟩ := ih (choosePoll m s) distinct
    have others (n : Nat) (ne : n ≠ m) : (choosePoll m s).line n = s.line n := by
      rw [chosen, line_setLine, if_neg fun h => ne h.1.symm]
    refine ⟨?_, fun n => ?_⟩
    · have same := congrArg (fun t : State => { t with lines := s.lines }) same
      rw [chosen] at same
      rw [chooseAll, chosen]
      exact same
    · rw [chooseAll, lines]
      by_cases head : n = m
      · subst head
        rw [if_neg notIn, if_pos List.mem_cons_self]
      · by_cases later : n ∈ rest
        · rw [if_pos later, if_pos (List.mem_cons_of_mem _ later)]
          refine choosePoll_line_congr (others n head) ?_
          rw [chosen]
          rfl
        · rw [if_neg later, if_neg (by simp [head, later]), others n head]

/-- A line with a poll in flight or in its silence chooses none (R112). -/
theorem choosePoll_of_busy {n : Nat} {s : State} (busy : (s.line n).poll.isSome ∨ (s.line n).silence.isSome) : choosePoll n s = s := by
  have taken : (s.line n).free = false := by
    unfold Line.free
    obtain poll | silence := busy
    · rw [Option.isNone_eq_false_iff.mpr poll, Bool.false_and]
    · rw [Option.isNone_eq_false_iff.mpr silence, Bool.and_false]
  rw [choosePoll, if_pos (.inl taken)]

/-- The lines after a change of each. -/
theorem line_mapAll {s t : State} (f : Line → Line) (mapped : t.lines = s.lines.map f) {n : Nat} (inTable : n < Config.nLine) :
    t.line n = f (s.line n) := line_mapLines mapped ⟨n, inTable⟩

/-- Settles O25: the four requests by their rows, the choices after WAKE line by line. -/
theorem startResumeQuietWake : Obligations.StartResumeQuietWake := by
  unfold Obligations.StartResumeQuietWake
  refine ⟨fun s r asks => ?start, fun s r asks => ?resume, fun s r asks => ?quiet, fun s r asks => ?wake⟩
  case start =>
    rw [exec_start_of_asks asks]
    refine ⟨fun other => by rw [if_pos other], fun halted noSun => by rw [if_neg (not_not.mpr halted), if_pos noSun],
      fun halted sun => ?_⟩
    rw [if_neg (not_not.mpr halted), if_neg (by rw [sun]; exact Bool.noConfusion)]
    obtain ⟨v, entered, e⟩ := setMode_tracking_of_still (s := s) (by rw [halted]; exact Mode.noConfusion)
    have spec := enterTracking_spec v
    rw [entered]
    subst e
    exact ⟨_, _, rfl, rfl, spec⟩
  case resume =>
    refine ⟨exec_resume_of_other asks, fun stow => ?_⟩
    rw [exec_resume_of_stow asks stow]
    have noSun (sun : s.sup.sunPresent = true) : ¬s.sup.sunPresent = false := by rw [sun]; exact Bool.noConfusion
    have noLine (line : s.weather.stowIn.level = false) : ¬s.weather.stowIn.level = true := by rw [line]; exact Bool.noConfusion
    refine ⟨fun none_ => by rw [if_pos none_], fun sun line => by rw [if_neg (noSun sun), if_pos line],
      fun sun line wind => by rw [if_neg (noSun sun), if_neg (noLine line), if_pos wind], fun sun line wind => ?_⟩
    rw [if_neg (noSun sun), if_neg (noLine line), if_neg (not_not.mpr wind)]
    obtain ⟨v, entered, e⟩ := resumeField_of_still (s := s) (by obtain m | m := stow <;> rw [m] <;> exact Mode.noConfusion)
    have spec := enterTracking_spec v
    rw [entered]
    subst e
    exact ⟨_, _, rfl, rfl, spec⟩
  case quiet =>
    obtain ⟨refused, already, entered⟩ := exec_quiet_of_asks asks
    refine ⟨refused, already, fun stowed => ⟨_, entered stowed, ?_⟩⟩
    have moved := setMode_of_still (s := s) (m := .quiet) (by rw [stowed]; exact Mode.noConfusion) (by rw [stowed]; exact Mode.noConfusion)
    unfold quietField
    rw [moved]
    exact ⟨rfl, fun n inTable => line_mapAll (fun l => { l with quiet := some (s.limits.quietInterval * 1000) }) rfl inTable⟩
  case wake =>
    obtain ⟨refused, already, woken⟩ := exec_wake_of_asks asks
    refine ⟨refused, already, fun quiet => ?_⟩
    rw [woken quiet, wakeField_eq quiet]
    have timers (n : Nat) (inTable : n < Config.nLine) : s.woken.line n = { s.line n with quiet := none } :=
      line_mapAll (fun l => { l with quiet := none }) rfl inTable
    obtain ⟨same, lines⟩ := chooseAll_line (List.range Config.nLine) s.woken List.nodup_range
    generalize chooseAll (List.range Config.nLine) s.woken = u at same lines
    refine ⟨s.woken, u, rfl, rfl, timers, ?_, fun n inTable => ?_⟩
    · have same := congrArg (fun t : State => { t with lines := u.lines }) same
      exact same
    · rw [lines n, if_pos (List.mem_range.mpr inTable)]
      exact ⟨rfl, fun busy => by rw [choosePoll_of_busy (by rw [timers n inTable]; exact busy)]⟩

/-! ## GRANT_PERMIT, REVOKE_PERMIT and STOW (R154, R159, R160) -/

/-- The permit composed after a request, which raises no exception (R159, R160). -/
theorem composePermit_unexcepted (before : Bool) (s : State) :
    (before = s.permit → composePermit before false s = s)
    ∧ (before = false → s.permit = true → composePermit before false s = { s with notices := s.notices.raise .mode })
    ∧ (before = true → s.permit = false → composePermit before false s = { s with
        notices := s.notices.raise .mode, sup := { s.sup with defocusPass := some 0 } }) := by
  unfold composePermit
  refine ⟨fun same => by rw [if_pos same], fun off on => ?_, fun on off => ?_⟩
  · rw [off, on]
    rfl
  · rw [on, off]
    rfl

theorem permit_iff (s : State) : s.permit = true ↔ s.sup.grant = true ∧ s.weather.permitIn.level = true ∧ s.sup.mode = .tracking := by
  simp [State.permit, and_assoc]

/-- Settles O27, by what the composition of the permit raises. -/
theorem grantAndRevokePermit : Obligations.GrantAndRevokePermit := by
  unfold Obligations.GrantAndRevokePermit
  refine ⟨fun s r asks => ?grant, fun s r asks => ?revoke⟩
  case grant =>
    have row : exec .grantPermit s = _ := request_asks asks rfl rfl grantPermitHandler
    refine ⟨setGrant true false s, row, ?_⟩
    have granted : State.permit { s with sup := { s.sup with grant := true } } = true ↔
        s.weather.permitIn.level = true ∧ s.sup.mode = .tracking := by
      rw [permit_iff]
      simp
    obtain ⟨same, rises, -⟩ := composePermit_unexcepted s.permit { s with sup := { s.sup with grant := true } }
    unfold setGrant
    by_cases inForce : s.permit = true
    · obtain ⟨grant, line, mode⟩ := (permit_iff s).mp inForce
      have stays : State.permit { s with sup := { s.sup with grant := true } } = true := granted.mpr ⟨line, mode⟩
      have noChange : ({ s with sup := { s.sup with grant := true } } : State) = s := by rw [← grant]
      rw [same (inForce.trans stays.symm), noChange]
      refine ⟨grant, ?_, fun _ => rfl, fun off => ?_, fun off => ?_, rfl, rfl⟩
      · rw [permit_iff]
        simp [grant]
      all_goals
        rw [inForce] at off
        cases off
    · have off : s.permit = false := by simpa using inForce
      by_cases now : State.permit { s with sup := { s.sup with grant := true } } = true
      · rw [rises off now]
        exact ⟨rfl, granted, fun on => absurd on inForce, fun _ _ => rfl,
          fun _ dropped => absurd (now.symm.trans dropped) Bool.noConfusion, rfl, rfl⟩
      · have still : State.permit { s with sup := { s.sup with grant := true } } = false := by simpa using now
        rw [same (off.trans still.symm)]
        exact ⟨rfl, granted, fun on => absurd on inForce, fun _ on => absurd on now, fun _ _ => rfl, rfl, rfl⟩
  case revoke =>
    have row : exec .revokePermit s = _ := request_asks asks rfl rfl revokePermitHandler
    refine ⟨setGrant false false s, row, ?_⟩
    have revoked : State.permit { s with sup := { s.sup with grant := false } } = false := rfl
    obtain ⟨same, -, drops⟩ := composePermit_unexcepted s.permit { s with sup := { s.sup with grant := false } }
    unfold setGrant
    by_cases inForce : s.permit = true
    · rw [drops inForce revoked]
      exact ⟨rfl, fun _ => ⟨rfl, rfl⟩, fun off => absurd (inForce.symm.trans off) Bool.noConfusion, rfl, rfl⟩
    · have off : s.permit = false := by simpa using inForce
      rw [same (off.trans revoked.symm)]
      exact ⟨rfl, fun on => absurd on inForce, fun _ => ⟨rfl, rfl⟩, rfl, rfl⟩

/-- Settles O28, by the entry into STOWING. -/
theorem stowResult : Obligations.StowResult := by
  unfold Obligations.StowResult
  intro s r asks
  have row : exec .stow s = _ := request_asks asks rfl rfl stowHandler
  rw [row]
  unfold stowHandler
  rw [enterStowing_eq]
  refine ⟨fun other => ?_, fun moves => ?_⟩
  · rw [if_neg (by obtain m | m | m := other <;> simp [m])]
    rfl
  · rw [if_pos moves]
    have permit : (s.sup.grant && s.weather.permitIn.level && false) = false := Bool.and_false _
    simp only [acceptMode, modeReply, State.modeBytes, State.permitByte, State.permit, Mode.code, byte1]
    rw [show (Mode.stowing == Mode.tracking) = false from rfl, permit]
    rfl

/-! ## The clearing reads (R149, R174, R178, R188) -/

/-- Settles O29: each read clears the sources of its set and no other. -/
theorem readsReturnAndClear : Obligations.ReadsReturnAndClear := by
  unfold Obligations.ReadsReturnAndClear
  refine ⟨fun s r asks => ⟨_, request_asks asks rfl rfl readStatusHandler, rfl, ?status, ?statusKept⟩,
    fun s r asks => ⟨_, request_asks asks rfl rfl readFaultHandler, rfl, ?_, ?_, ?_⟩,
    fun s r asks => ⟨_, request_asks asks rfl rfl readMissHandler, rfl, ?_, ?_, ?_⟩,
    fun s r asks => ⟨_, request_asks asks rfl rfl readWeatherHandler, rfl, ?_, ?_, ?_⟩⟩
  all_goals simp [Notices.clearSet, inSet_and, inSet_not, inSet_or, inSet_bit]

end Sys2Proof.Machine
end


section
/-! HALT and the segmented reads (O26, O30; R46, R70, R153). -/

namespace Sys2Proof.Machine

/-! ## A record at HALT (R153) -/

/-- A record that a HALT takes, with the pending target it keeps. -/
def Helio.haltedWith (h : Helio) (pending : Option Target) : Helio :=
  { h with
    st := if h.st = .clear then .idle else h.st, lag := if h.st = .clear then 0 else h.lag, pendingT := pending }

theorem halted_eq (h : Helio) : h.halted = h.haltedWith (h.pendingT.filter fun t => t.kind.urgent) := by
  unfold Helio.halted Helio.haltedWith Helio.toState
  by_cases clear : h.st = .clear
  · rw [if_pos clear, if_neg (by rw [clear]; exact HState.noConfusion)]
    simp [clear]
  · simp [clear]

theorem halted_occupied (h : Helio) : h.halted.occupied = h.occupied := by
  rw [halted_eq, Helio.occupied, Helio.occupied, Helio.haltedWith]
  by_cases clear : h.st = .clear
  · rw [clear]
    rfl
  · simp [clear]

/-- Of a pending target a HALT keeps a DEFOCUS or STOW (R153). -/
theorem filter_urgent (t : Target) : (some t).filter (fun t => t.kind.urgent) = if t.kind = .defocus ∨ t.kind = .stow then some t else none := by
  rw [Option.filter_some]
  cases t.kind <;> rfl

/-- The next occupied record depends on which records are occupied. -/
theorem nextOccupied_congr {s t : State} (same : ∀ j, (t.helio j).occupied = (s.helio j).occupied) (i : Nat) :
    t.nextOccupied i = s.nextOccupied i := by
  rw [nextOccupied_eq, nextOccupied_eq]
  exact firstFrom_congr fun j _ _ => same j

theorem nextOccupied_none {s : State} {i : Nat} (none_ : s.nextOccupied i = none) (j : Nat) (from_ : i ≤ j) :
    (s.helio j).occupied = false := by
  by_contra occupied
  rw [Bool.not_eq_false] at occupied
  have inTable := occupied_lt s j occupied
  rw [nextOccupied_eq] at none_
  have free := firstFrom_none none_ j from_ (by omega)
  rw [occupied] at free
  cases free

theorem setHelio_halted_nextOccupied (s : State) (k i : Nat) : (s.setHelio k (s.helio k).halted).nextOccupied i = s.nextOccupied i := by
  refine nextOccupied_congr (fun j => ?_) i
  rw [helio_setHelio]
  split
  · rename_i here
    rw [halted_occupied, here.1]
  · rfl

/-! ## The accesses of a HALT -/

theorem haltFrom_last {s : State} {i : Nat} (none_ : s.nextOccupied i = none) : haltFrom i s = (s, .last [0x00#8 :: s.modeBytes]) := by
  rw [haltFrom, none_]
  rfl

theorem haltFrom_more {s : State} {i : Nat} (some_ : (s.nextOccupied i).isSome) : haltFrom i s = (s, .more (.halt i)) := by
  rw [haltFrom, if_pos some_]

theorem serveWork_halt_none {s : State} {i : Nat} (none_ : s.nextOccupied i = none) :
    serveWork (.halt i) s = (s, .last [0x00#8 :: s.modeBytes]) := by
  rw [← haltFrom_last none_]
  simp only [serveWork, haltRecord, none_]

theorem serveWork_halt_some {s : State} {i k : Nat} (next : s.nextOccupied i = some k) :
    (s.nextOccupied (k + 1) = none → serveWork (.halt i) s =
      (s.setHelio k (s.helio k).halted, .last [0x00#8 :: (s.setHelio k (s.helio k).halted).modeBytes]))
    ∧ ((s.nextOccupied (k + 1)).isSome → serveWork (.halt i) s = (s.setHelio k (s.helio k).halted, .more (.halt (k + 1)))) := by
  have served : serveWork (.halt i) s = haltFrom (k + 1) (s.setHelio k (s.helio k).halted) := by
    simp only [serveWork, haltRecord, next]
  rw [served]
  refine ⟨fun none_ => haltFrom_last ?_, fun some_ => haltFrom_more ?_⟩
  · rw [setHelio_halted_nextOccupied, none_]
  · rw [setHelio_halted_nextOccupied]
    exact some_

/-- The request asked for is the same after the arbiter acted. -/
theorem State.asks.arbited {s : State} {r : Req} {kind : Byte} {payload : List Byte} (asks : s.asks r kind payload) :
    (arbiter s).asks r kind payload := by
  obtain ⟨running, next, named, carried⟩ := asks
  refine ⟨by simpa using running, ?_, named, carried⟩
  rw [State.nextRequest, arbiter_restarting, arbiter_queue]
  exact next

theorem arbiter_setWork_queue (w : Option Work) (u : State) : ((arbiter u).setWork w).link.queue = (u.setWork w).link.queue :=
  congrArg (markWork w) (arbiter_queue u)

/-- t is s after every occupied record from index i on has been taken by the HALT that r asked for, and r answered (R153). -/
structure State.HaltDone (s t : State) (i : Nat) : Prop where
  records : ∀ j < Config.nHelio, t.helio j = if i ≤ j ∧ (s.helio j).occupied then (s.helio j).halted else s.helio j
  queue   : t.link.queue = markDone (s.setWork none).link.queue
  rest    : t.sansPort = { s with helios := t.helios }.sansPort

/-- An answer ends a HALT that has no occupied record left. -/
theorem haltDone_of_answer {s : State} {i k : Nat} (r : Req) (segments : List (List Byte)) (next : s.nextOccupied i = some k)
    (none_ : s.nextOccupied (k + 1) = none) :
    s.HaltDone (((s.setHelio k (s.helio k).halted).setWork none).answered r segments) i := by
  obtain ⟨from_, inTable, occupied, before⟩ := nextOccupied_some next
  constructor
  · intro j known
    have read : ((((s.setHelio k (s.helio k).halted).setWork none).answered r segments).helio j) =
        (s.setHelio k (s.helio k).halted).helio j := arbiter_helio _ _
    rw [read]
    rcases Nat.lt_trichotomy j k with less | rfl | more
    · rw [helio_setHelio_ne _ _ _ _ (by omega), if_neg]
      rintro ⟨here, taken⟩
      rw [before j here less] at taken
      cases taken
    · rw [helio_setHelio_self _ _ _ known, if_pos ⟨from_, occupied⟩]
    · rw [helio_setHelio_ne _ _ _ _ (by omega), if_neg]
      rintro ⟨-, taken⟩
      rw [nextOccupied_none none_ j more] at taken
      cases taken
  · exact arbiter_queue _
  · rw [answered_sansPort]
    unfold State.answered
    rw [arbiter_helios]
    rfl

/-- An access of a HALT, and then those left. -/
theorem haltDone_of_access {s t : State} {i k : Nat} (next : s.nextOccupied i = some k)
    (later : (arbiter ((s.setHelio k (s.helio k).halted).setWork (some (.halt (k + 1))))).HaltDone t (k + 1)) : s.HaltDone t i := by
  obtain ⟨from_, inTable, occupied, before⟩ := nextOccupied_some next
  constructor
  · intro j known
    rw [later.records j known, arbiter_helio, setWork_helio]
    rcases Nat.lt_trichotomy j k with less | rfl | more
    · rw [helio_setHelio_ne _ _ _ _ (by omega), if_neg (fun h => by omega), if_neg]
      rintro ⟨here, taken⟩
      rw [before j here less] at taken
      cases taken
    · rw [helio_setHelio_self _ _ _ known, if_neg (fun h => by omega), if_pos ⟨from_, occupied⟩]
    · rw [helio_setHelio_ne _ _ _ _ (by omega)]
      simp only [(by omega : k + 1 ≤ j), (by omega : i ≤ j), true_and]
  · rw [later.queue, arbiter_setWork_queue, setWork_setWork]
    rfl
  · rw [later.rest]
    exact congrArg (fun u : State => { u with helios := t.helios }) (arbiter_sansPort _)

/-- With no other command between, the accesses of a HALT that are left take every occupied record from i on (R153). -/
theorem runCommands_halt (n : Nat) : ∀ (s : State) (r : Req) (i : Nat), Config.nHelio - i ≤ n → s.asks r 0x12#8 [] →
    r.work = some (.halt i) → (s.nextOccupied i).isSome →
    ∃ m t, m ≤ n ∧ runCommands (List.replicate m .halt) s = .next t ∧ s.HaltDone t i := by
  induction n with
  | zero =>
    intro s r i bound _ _ some_
    obtain ⟨k, next⟩ := Option.isSome_iff_exists.mp some_
    obtain ⟨from_, inTable, -, -⟩ := nextOccupied_some next
    omega
  | succ n ih =>
    intro s r i bound asks left some_
    obtain ⟨k, next⟩ := Option.isSome_iff_exists.mp some_
    obtain ⟨from_, inTable, -, -⟩ := nextOccupied_some next
    obtain ⟨last, more⟩ := serveWork_halt_some next
    by_cases goesOn : (s.nextOccupied (k + 1)).isSome
    · have taken : exec .halt s = _ := requestByAccess_goesOn asks rfl left (more goesOn)
      obtain ⟨m, t, few, run, done⟩ := ih _ { r with work := some (.halt (k + 1)) } (k + 1) (by omega)
        (asks.left (s.setHelio k (s.helio k).halted) rfl rfl _).arbited rfl (by
          rw [State.nextOccupied, arbiter_helios]
          rw [← setHelio_halted_nextOccupied s k (k + 1)] at goesOn
          exact goesOn)
      exact ⟨m + 1, t, by omega, by rw [runCommands_replicate_succ m taken, run], haltDone_of_access next done⟩
    · have none_ : s.nextOccupied (k + 1) = none := by simpa using goesOn
      have taken : exec .halt s = _ := requestByAccess_ends asks rfl left (last none_)
      exact ⟨1, _, by omega, by rw [runCommands_replicate_succ 0 taken]; rfl, haltDone_of_answer r _ next none_⟩

/-- The field that a HALT leaves before it takes the records (R90, R91, R151, R153). -/
def State.haltedField (s : State) : State :=
  { s with
    sup := { s.sup with mode := .halted }, notices := s.notices.raise .mode
    sweep := if s.sup.mode = .tracking then { s.sweep with timer := .stopped, startWaiting := false } else s.sweep }

/-- HALT's first access in R153's order. -/
theorem haltFirst_eq (s : State) :
    (s.sup.mode = .stowing ∨ s.sup.mode = .quiet → haltFirst [] s = (s, .last [0x10#8 :: s.modeBytes]))
    ∧ (s.sup.mode = .halted → haltFirst [] s = (s, .last [0x00#8 :: s.modeBytes]))
    ∧ (s.sup.mode = .tracking ∨ s.sup.mode = .stowed →
        haltFirst [] s = if s.anyReserved then (s, .last [0x13#8 :: s.modeBytes]) else haltFrom 0 s.haltedField) := by
  unfold haltFirst
  refine ⟨fun mode => ?_, fun mode => ?_, fun mode => ?_⟩
  · obtain mode | mode := mode <;> simp only [mode] <;> rfl
  · simp only [mode]
    rfl
  · have moved : setMode .halted s = s.haltedField := setMode_ne (by obtain mode | mode := mode <;> rw [mode] <;> exact Mode.noConfusion)
    obtain mode | mode := mode <;> simp only [mode, moved] <;> rfl

theorem anyReserved_iff (s : State) : s.anyReserved = true ↔ ∃ h ∈ s.helios.toList, h.primary.isSome ∨ h.transfer.isSome := by
  simp only [State.anyReserved, List.any_eq_true, Helio.reserved, Bool.or_eq_true]

/-- Settles O26: the first access by the mode, the accesses that follow by the next occupied record. -/
theorem haltResult : Obligations.HaltResult := by
  unfold Obligations.HaltResult
  intro s r asks
  obtain ⟨wrong, already, moves⟩ := haltFirst_eq s
  refine ⟨fun fresh mode => requestByAccess_only asks rfl fresh (wrong mode) rfl,
    fun fresh mode => requestByAccess_only asks rfl fresh (already mode) rfl, fun fresh mode held => ?held, fun fresh mode free => ?field,
    fun i left => ⟨fun none_ => requestByAccess_ends asks rfl left (serveWork_halt_none none_), fun k next => ?record⟩⟩
  case held =>
    refine requestByAccess_only asks rfl fresh ?_ rfl
    rw [moves mode, if_pos ((anyReserved_iff s).mpr held)]
  case field =>
    have unreserved : ¬s.anyReserved = true := by
      rw [anyReserved_iff]
      rintro ⟨h, m, held⟩
      obtain ⟨noPrimary, noTransfer⟩ := free h m
      simp [noPrimary, noTransfer] at held
    have first : haltFirst [] s = haltFrom 0 s.haltedField := by rw [moves mode, if_neg unreserved]
    have ended (none_ : s.nextOccupied 0 = none) : exec .halt s = _ :=
      requestByAccess_only asks rfl fresh (first.trans (haltFrom_last (s := s.haltedField) none_)) rfl
    have begun (some_ : (s.nextOccupied 0).isSome) : exec .halt s = _ :=
      requestByAccess_begins asks rfl fresh (first.trans (haltFrom_more (s := s.haltedField) some_))
    have own : s.haltedField.setWork none = s.haltedField := setWork_none (s := s.haltedField) asks.2.1 fresh
    have queue : (s.haltedField.setWork none).link.queue = s.link.queue := by rw [own]; rfl
    refine ⟨s.haltedField, rfl, ended, begun, ?_⟩
    have run : ∃ m t, m ≤ 2049 ∧ runCommands (List.replicate m .halt) s = .next t ∧ s.haltedField.HaltDone t 0 := by
      by_cases some_ : (s.nextOccupied 0).isSome
      · obtain ⟨m, t, few, run, done⟩ := runCommands_halt 2048 _ { r with work := some (.halt 0) } 0 (by simp only [Config.nHelio]; omega)
          (asks.left s.haltedField rfl rfl _).arbited rfl (by
            rw [State.nextOccupied, arbiter_helios]
            exact some_)
        refine ⟨m + 1, t, by omega, by rw [runCommands_replicate_succ m (begun some_), run], ?_, ?_, ?_⟩
        · intro j known
          rw [done.records j known, arbiter_helio]
          rfl
        · rw [done.queue, arbiter_setWork_queue, setWork_setWork]
        · rw [done.rest]
          exact congrArg (fun u : State => { u with helios := t.helios }) (arbiter_sansPort _)
      · have none_ : s.nextOccupied 0 = none := by simpa using some_
        refine ⟨1, _, by omega, by rw [runCommands_replicate_succ 0 (ended none_)]; rfl, ?_, ?_, ?_⟩
        · intro j _
          have read := nextOccupied_none none_ j (Nat.zero_le j)
          have same : (s.haltedField.answered r [0x00#8 :: s.haltedField.modeBytes]).helio j = s.helio j := arbiter_helio _ _
          rw [same, if_neg]
          · rfl
          · rintro ⟨-, occupied⟩
            exact absurd (read.symm.trans occupied) Bool.noConfusion
        · rw [own]
          exact arbiter_queue _
        · rw [answered_sansPort]
          unfold State.answered
          rw [arbiter_helios]
          rfl
    obtain ⟨m, t, few, run, done⟩ := run
    refine ⟨m, t, few, run, fun i known vacant => ?_, fun i known occupied => ?_, by rw [done.queue, queue], done.rest⟩
    · rw [done.records i known, if_neg]
      · rfl
      · rintro ⟨-, taken⟩
        have taken : (s.helio i).occupied = true := taken
        simp [Helio.occupied, vacant] at taken
    · have taken : (s.helio i).occupied = true := by simpa [Helio.occupied] using occupied
      rw [done.records i known, if_pos ⟨Nat.zero_le i, taken⟩]
      refine (halted_eq (s.helio i)).trans ?_
      cases e : (s.helio i).pendingT with
      | none => rfl
      | some t => exact congrArg (s.helio i).haltedWith (filter_urgent t)
  case record =>
    obtain ⟨last, more⟩ := serveWork_halt_some next
    refine ⟨_, ?_, fun none_ => requestByAccess_ends asks rfl left (last none_), fun some_ => requestByAccess_goesOn asks rfl left (more some_)⟩
    rw [halted_eq]
    cases e : (s.helio k).pendingT with
    | none => rfl
    | some t => exact congrArg (fun p => s.setHelio k ((s.helio k).haltedWith p)) (filter_urgent t)

end Sys2Proof.Machine
end


section
/-! The segmented reads (O30; R46, R70, R183). -/

namespace Sys2Proof.Machine

/-! ## Entries packed into segments (Table 10-6) -/

theorem packEntries_flatten (room : Nat) (entries : List (List Byte)) :
    ∀ held, (packEntries room held entries).flatten = held ++ entries := by
  induction entries with
  | nil =>
    intro held
    cases held <;> simp [packEntries]
  | cons e rest ih =>
    intro held
    unfold packEntries
    split
    · rw [ih, List.append_assoc, List.singleton_append]
    · rw [List.flatten_cons, ih, List.singleton_append]

/-- Each segment stays within its room, when each entry does. -/
theorem packEntries_room {room : Nat} (entries : List (List Byte)) (small : ∀ e ∈ entries, e.length ≤ room) :
    ∀ held : List (List Byte), held.flatten.length ≤ room → ∀ g ∈ packEntries room held entries, g.flatten.length ≤ room := by
  induction entries with
  | nil =>
    intro held fits g m
    cases held with
    | nil => cases m
    | cons x xs =>
      rw [List.mem_singleton.mp m]
      exact fits
  | cons e rest ih =>
    intro held fits g m
    have later := ih fun x mx => small x (List.mem_cons_of_mem e mx)
    unfold packEntries at m
    split at m
    · rename_i room_
      exact later _ (by rwa [List.length_flatten]) g m
    · obtain rfl | m := List.mem_cons.mp m
      · exact fits
      · exact later [e] (by simpa using small e List.mem_cons_self) g m

/-- No segment is empty. -/
theorem packEntries_nonempty {room : Nat} (entries : List (List Byte)) (small : ∀ e ∈ entries, e.length ≤ room) :
    ∀ held : List (List Byte), ∀ g ∈ packEntries room held entries, g ≠ [] := by
  induction entries with
  | nil =>
    intro held g m
    cases held with
    | nil => cases m
    | cons x xs =>
      rw [List.mem_singleton.mp m]
      exact List.cons_ne_nil x xs
  | cons e rest ih =>
    intro held g m
    have later := ih fun x mx => small x (List.mem_cons_of_mem e mx)
    unfold packEntries at m
    split at m
    · exact later _ g m
    · rename_i full
      obtain rfl | m := List.mem_cons.mp m
      · rintro rfl
        exact full (by simpa using small e List.mem_cons_self)
      · exact later [e] g m

/-- Segments numbered from n, bit 7 of the segment byte set in the last alone (R183, Table 10-6). -/
theorem buildSegments_eq (extra : List Byte) (groups : List (List (List Byte))) : ∀ n, groups ≠ [] →
    buildSegments extra n groups = (groups.zipIdx n).map fun g =>
      (0x00#8 :: BitVec.ofNat 8 (g.2 + if g.2 + 1 = n + groups.length then 128 else 0) :: BitVec.ofNat 8 g.1.length :: extra) ++ g.1.flatten := by
  induction groups with
  | nil => exact fun _ some_ => absurd rfl some_
  | cons seg rest ih =>
    intro n _
    cases rest with
    | nil => simp [buildSegments, segmentByte, byte1, ResultCode.byte]
    | cons seg' rest =>
      rw [buildSegments, ih (n + 1) (List.cons_ne_nil _ _)]
      conv_rhs => rw [List.zipIdx_cons, List.map_cons]
      congr 1
      · simp [segmentByte, byte1, ResultCode.byte]
      · refine List.map_congr_left fun g _ => ?_
        simp only [List.length_cons, Nat.add_assoc, Nat.add_comm, Nat.add_left_comm]

/-- A read's segments: its entries in order, each segment within room. -/
theorem segments_spec {room : Nat} (extra : List Byte) {entries : List (List Byte)} (some_ : entries ≠ [])
    (small : ∀ e ∈ entries, e.length ≤ room) : ∃ groups : List (List (List Byte)), groups.flatten = entries
      ∧ buildSegments extra 0 (packEntries room [] entries) = groups.zipIdx.map (fun g =>
          (0x00#8 :: BitVec.ofNat 8 (g.2 + if g.2 + 1 = groups.length then 128 else 0) :: BitVec.ofNat 8 g.1.length :: extra) ++ g.1.flatten)
      ∧ ∀ g ∈ groups, g.flatten.length ≤ room ∧ g ≠ [] := by
  have flat : (packEntries room [] entries).flatten = entries := packEntries_flatten room entries []
  have nonempty : packEntries room [] entries ≠ [] := by
    intro none_
    rw [none_] at flat
    exact some_ flat.symm
  refine ⟨packEntries room [] entries, flat, ?_, fun g m => ⟨packEntries_room entries small [] (Nat.zero_le _) g m,
    packEntries_nonempty entries small [] g m⟩⟩
  simpa using buildSegments_eq extra _ 0 nonempty

/-! ## READ_ZONES (R70) -/

theorem zoneBytes_length (n : Nat) (z : Zone) : (zoneBytes n z).length = 20 := by simp [zoneBytes]

theorem exec_readZones_of_asks {s : State} {r : Req} {z n : Nat} (first : z < 256) (count : n < 256)
    (asks : s.asks r 0x23#8 [BitVec.ofNat 8 z, BitVec.ofNat 8 n]) :
    exec .readZones s = .next (s.answered r (
      if 127 < z ∨ n = 0 ∨ 16 < n then [[0x03#8]]
      else buildSegments [] 0 (packEntries 247 [] ((List.range (min n (128 - z))).map fun j => zoneBytes (z + j) (s.zone (z + j)))))) := by
  have atZone : fieldNat [BitVec.ofNat 8 z, BitVec.ofNat 8 n] 0 1 = z := fieldNat_byte1 (byte1 n) first
  have asked : fieldNat [BitVec.ofNat 8 z, BitVec.ofNat 8 n] 1 1 = n :=
    (fieldNat_append (byte1 z) (byte1 n) _ _ le_rfl).trans (fieldNat_byte1_all count)
  refine (request_asks asks rfl rfl readZonesHandler).trans ?_
  rw [readZonesHandler, atZone, asked]
  split_ifs <;> rfl

/-! ## READ_HELIOSTATS (R46) -/

theorem optBytes_length {n : Nat} {o : Option (List Byte)} (fits : ∀ b, o = some b → b.length = n) : (optBytes n o).length = n := by
  cases o with
  | none => exact List.length_replicate
  | some b => exact fits b rfl

/-- An optional field of an entry has its length whether it is present or not (Table 10-7). -/
theorem optBytes_map_length {α : Type} {n : Nat} (o : Option α) (f : α → List Byte) (fits : ∀ a, (f a).length = n) :
    (optBytes n (o.map f)).length = n := by
  refine optBytes_length fun b e => ?_
  obtain ⟨a, -, rfl⟩ := Option.map_eq_some_iff.mp e
  exact fits a

theorem helioEntry_length (i : Nat) (h : Helio) : (helioEntry i h).length ≤ 246 := by
  unfold helioEntry
  split
  · simp only [List.length_append, natBytes_length, intBytes_length, byte1_length]
    rw [optBytes_map_length h.commanded Target.bytes fun t => by simp [Target.bytes],
      optBytes_map_length h.pendingT Target.bytes fun t => by simp [Target.bytes],
      optBytes_map_length h.lastRecv _ fun p => by simp, optBytes_map_length h.reported Reported.bytes fun p => by simp [Reported.bytes],
      optBytes_map_length h.primary Reservation.bytes fun p => by simp [Reservation.bytes],
      optBytes_map_length h.transfer Reservation.bytes fun p => by simp [Reservation.bytes], optBytes_map_length h.lastExc _ fun k => by simp]
    decide
  · simp

theorem readRecord_more {first left : Nat} (more : 2 ≤ left) (entries : List (List Byte)) (s : State) :
    readRecord first left entries s = (s, .more (.read first (left - 1)
      (entries ++ [helioEntry (first + entries.length) (s.helio (first + entries.length))]))) := by
  rw [readRecord, if_neg (by omega)]

/-- The state and the reply that the last access of a read leaves (R46). -/
theorem readRecord_last {first left : Nat} (last : left ≤ 1) (entries : List (List Byte)) (s : State) :
    readRecord first left entries s = ({ s with link := { s.link with cursor := first + entries.length + 1 } }, .last
      (buildSegments (boolByte (first + entries.length + 1 == 2048)) 0 (packEntries 246 []
        (entries ++ [helioEntry (first + entries.length) (s.helio (first + entries.length))])))) := by
  rw [readRecord, if_pos last, endRead, List.length_append, List.length_singleton, Nat.add_assoc]

theorem serveWork_read (first left : Nat) (entries : List (List Byte)) (s : State) :
    serveWork (.read first left entries) s = readRecord first left entries s := rfl

/-- The entries of the records from one on. -/
def State.entriesFrom (s : State) (first m : Nat) : List (List Byte) :=
  (List.range m).map fun j => helioEntry (first + j) (s.helio (first + j))

theorem entriesFrom_succ (s : State) (first m : Nat) :
    s.entriesFrom first (m + 1) = helioEntry first (s.helio first) :: s.entriesFrom (first + 1) m := by
  unfold State.entriesFrom
  rw [List.range_succ_eq_map, List.map_cons, List.map_map, Nat.add_zero]
  refine congrArg _ (List.map_congr_left fun j _ => ?_)
  rw [Function.comp, Nat.succ_eq_add_one, Nat.add_comm j, Nat.add_assoc]

theorem entriesFrom_small (s : State) (first m : Nat) : ∀ e ∈ s.entriesFrom first m, e.length ≤ 246 := by
  intro e me
  obtain ⟨j, -, rfl⟩ := List.mem_map.mp me
  exact helioEntry_length _ _

/-- With no other command between, the accesses of a read that are left take the records from the next on, each as it stands (R46). -/
theorem runCommands_read (m : Nat) : ∀ (s : State) (r : Req) (payload : List Byte) (first : Nat) (entries : List (List Byte)),
    s.asks r 0x22#8 payload → payload.length = 1 → r.work = some (.read first (m + 1) entries) → arbiter s = s →
    runCommands (List.replicate (m + 1) .readHeliostats) s =
      .next (({ s with link := { s.link with cursor := first + entries.length + (m + 1) } }.setWork none).answered r
        (buildSegments (boolByte (first + entries.length + (m + 1) == 2048)) 0
          (packEntries 246 [] (entries ++ s.entriesFrom (first + entries.length) (m + 1))))) := by
  induction m with
  | zero =>
    intro s r payload first entries asks length left _
    have taken : exec .readHeliostats s = _ := requestByAccess_ends asks (by simp [length]) left
      ((serveWork_read ..).trans (readRecord_last (by omega) entries s))
    rw [runCommands_replicate_succ 0 taken]
    rfl
  | succ m ih =>
    intro s r payload first entries asks length left rests
    have taken : exec .readHeliostats s = _ :=
      requestByAccess_goesOn asks (by simp [length]) left ((serveWork_read ..).trans (readRecord_more (by omega) entries s))
    have still : arbiter (s.setWork (some (.read first (m + 1)
        (entries ++ [helioEntry (first + entries.length) (s.helio (first + entries.length))])))) = _ :=
      arbiter_access (t := s) rests rfl rfl _
    rw [show m + 1 + 1 - 1 = m + 1 from rfl, still] at taken
    rw [runCommands_replicate_succ (m + 1) taken, ih _ { r with work := some _ } payload first _ (asks.left s rfl rfl _) length rfl still]
    have here : first + (entries ++ [helioEntry (first + entries.length) (s.helio (first + entries.length))]).length + (m + 1) =
        first + entries.length + (m + 1 + 1) := by
      rw [List.length_append, List.length_singleton]
      omega
    rw [here, entriesFrom_succ s (first + entries.length) (m + 1), List.append_assoc, List.singleton_append, List.length_append,
      List.length_singleton, ← Nat.add_assoc first]
    have queue : ({ s.setWork (some (.read first (m + 1) (entries ++ [helioEntry (first + entries.length) (s.helio (first + entries.length))])))
        with link := { (s.setWork (some (.read first (m + 1) (entries ++ [helioEntry (first + entries.length)
          (s.helio (first + entries.length))])))).link with cursor := first + entries.length + (m + 1 + 1) } } : State).setWork none =
        ({ s with link := { s.link with cursor := first + entries.length + (m + 1 + 1) } } : State).setWork none :=
      setWork_setWork _ _ ({ s with link := { s.link with cursor := first + entries.length + (m + 1 + 1) } } : State)
    rw [queue]
    rfl

/-- READ_HELIOSTATS's first access. -/
theorem readHeliostatsFirst_eq {n : Nat} (fits : n < 256) (s : State) :
    (n = 0 ∨ 8 < n → readHeliostatsFirst (byte1 n) s = (s, .last [[0x03#8]]))
    ∧ (1 ≤ n → n ≤ 8 → s.link.cursor < 2048 →
        readHeliostatsFirst (byte1 n) s = readRecord s.link.cursor (min n (2048 - s.link.cursor)) [] s)
    ∧ (1 ≤ n → n ≤ 8 → s.link.cursor = 2048 →
        readHeliostatsFirst (byte1 n) s = (s, .last [[0x00#8, 0x80#8, 0x00#8, 0x01#8]])) := by
  rw [readHeliostatsFirst, fieldNat_byte1_all fits]
  refine ⟨fun refused => by rw [if_pos refused]; rfl, fun some_ few left => ?_, fun some_ few end_ => ?_⟩
  · rw [if_neg (by omega), if_pos left]
  · have same : ({ s with link := { s.link with cursor := 2048 } } : State) = s := by rw [← end_]
    rw [if_neg (by omega), if_neg (by omega), end_, endRead]
    simp only [List.length_nil, Nat.add_zero, same]
    rfl

/-- With no other command between, the accesses of a read take the records from the cursor upward (R46). -/
theorem runCommands_readAll {s : State} {r : Req} {n m : Nat} (fits : n < 256) (asks : s.asks r 0x22#8 (byte1 n)) (fresh : r.work = none)
    (some_ : 1 ≤ n) (few : n ≤ 8) (rests : arbiter s = s) (count : min n (2048 - s.link.cursor) = m + 1) :
    runCommands (List.replicate (m + 1) .readHeliostats) s =
      .next ({ s with link := { s.link with cursor := s.link.cursor + (m + 1) } }.answered r
        (buildSegments (boolByte (s.link.cursor + (m + 1) == 2048)) 0 (packEntries 246 [] (s.entriesFrom s.link.cursor (m + 1))))) := by
  obtain ⟨-, reads, -⟩ := readHeliostatsFirst_eq fits s
  have first := reads some_ few (by omega)
  rw [count] at first
  cases m with
  | zero =>
    have taken : exec .readHeliostats s = _ :=
      requestByAccess_only asks rfl fresh (first.trans (readRecord_last (by omega) [] s)) rfl
    rw [runCommands_replicate_succ 0 taken]
    rfl
  | succ m =>
    have taken : exec .readHeliostats s = _ :=
      requestByAccess_begins asks rfl fresh (first.trans (readRecord_more (by omega) [] s))
    have still : arbiter (s.setWork (some (.read s.link.cursor (m + 1) [helioEntry s.link.cursor (s.helio s.link.cursor)]))) = _ :=
      arbiter_access (t := s) rests rfl rfl _
    simp only [List.nil_append, List.length_nil, Nat.add_zero] at taken
    rw [show m + 1 + 1 - 1 = m + 1 from rfl, still] at taken
    rw [runCommands_replicate_succ (m + 1) taken,
      runCommands_read m _ { r with work := some _ } (byte1 n) s.link.cursor _ (asks.left s rfl rfl _) rfl rfl still]
    have own : ({ s with link := { s.link with cursor := s.link.cursor + (m + 1 + 1) } } : State).setWork none = _ :=
      setWork_none (s := { s with link := { s.link with cursor := s.link.cursor + (m + 1 + 1) } }) asks.2.1 fresh
    have here : s.link.cursor + [helioEntry s.link.cursor (s.helio s.link.cursor)].length + (m + 1) = s.link.cursor + (m + 1 + 1) := by
      rw [List.length_singleton]
      omega
    have queue : ({ s.setWork (some (.read s.link.cursor (m + 1) [helioEntry s.link.cursor (s.helio s.link.cursor)])) with
        link := { (s.setWork (some (.read s.link.cursor (m + 1) [helioEntry s.link.cursor (s.helio s.link.cursor)]))).link with
          cursor := s.link.cursor + (m + 1 + 1) } } : State).setWork none =
        ({ s with link := { s.link with cursor := s.link.cursor + (m + 1 + 1) } } : State).setWork none :=
      setWork_setWork _ _ ({ s with link := { s.link with cursor := s.link.cursor + (m + 1 + 1) } } : State)
    rw [here, queue, own, entriesFrom_succ s s.link.cursor (m + 1)]
    rfl

/-- The END byte of a segment (Table 10-6). -/
theorem boolByte_end (c : Nat) : boolByte (c == 2048) = [if c = 2048 then 0x01#8 else 0x00#8] := by
  by_cases end_ : c = 2048
  · rw [if_pos end_, end_]
    rfl
  · rw [if_neg end_, beq_eq_false_iff_ne.mpr end_]
    rfl

/-- Settles O30: the accesses of READ_HELIOSTATS one by one and together, and the single access of READ_ZONES. -/
theorem segmentedReads : Obligations.SegmentedReads := by
  unfold Obligations.SegmentedReads
  refine ⟨fun s r n fits inTable asks => ?helios, fun s r z n first count asks => ?zones⟩
  case helios =>
    obtain ⟨refused, reads, empty⟩ := readHeliostatsFirst_eq fits s
    refine ⟨fun fresh outside => requestByAccess_only asks rfl fresh (refused outside) rfl, fun fresh some_ few two => ?begins,
      fun first left entries work more => requestByAccess_goesOn asks rfl work (readRecord_more more entries s),
      fun fresh some_ few rests => ?all, fun first left entries work last small => ?last⟩
    case begins => exact requestByAccess_begins asks rfl fresh ((reads some_ few (by omega)).trans (readRecord_more two [] s))
    case all =>
      obtain none_ | ⟨m, count⟩ : min n (2048 - s.link.cursor) = 0 ∨ ∃ m, min n (2048 - s.link.cursor) = m + 1 := by
        cases min n (2048 - s.link.cursor) with
        | zero => exact .inl rfl
        | succ m => exact .inr ⟨m, rfl⟩
      · have end_ : s.link.cursor = 2048 := by omega
        have taken : exec .readHeliostats s = _ := requestByAccess_only asks rfl fresh (empty some_ few end_) rfl
        refine ⟨0, [], none_.symm, rfl, ?_, fun g m => by cases m⟩
        rw [show max 1 0 = 0 + 1 from rfl, runCommands_replicate_succ 0 taken]
        rfl
      · obtain ⟨groups, flat, built, spec⟩ := segments_spec (boolByte (s.link.cursor + (m + 1) == 2048))
          (entries := s.entriesFrom s.link.cursor (m + 1)) (by simp [State.entriesFrom]) (entriesFrom_small s _ _)
        refine ⟨m + 1, groups, count.symm, flat, ?_, fun g mem => ⟨by have := (spec g mem).1; omega, fun _ => (spec g mem).2⟩⟩
        rw [Nat.max_eq_right (by omega), runCommands_readAll fits asks fresh some_ few rests count, built, boolByte_end, if_neg (Nat.succ_ne_zero m)]
    case last =>
      have smallToo : ∀ e ∈ entries ++ [helioEntry (first + entries.length) (s.helio (first + entries.length))], e.length ≤ 246 := by
        intro e m
        obtain m | m := List.mem_append.mp m
        · exact small e m
        · rw [List.mem_singleton.mp m]
          exact helioEntry_length _ _
      obtain ⟨groups, flat, built, spec⟩ := segments_spec (boolByte (first + entries.length + 1 == 2048)) (by simp) smallToo
      refine ⟨groups, flat, ?_, fun g mem => ⟨by have := (spec g mem).1; omega, (spec g mem).2⟩⟩
      have taken : exec .readHeliostats s = _ := requestByAccess_ends asks rfl work
        ((serveWork_read ..).trans (readRecord_last (by omega) entries s))
      rw [taken, built, boolByte_end]
  case zones =>
    rw [exec_readZones_of_asks first count asks]
    refine ⟨fun refused => by rw [if_pos refused], fun inTable some_ few => ?_⟩
    rw [if_neg (by omega)]
    obtain ⟨groups, flat, built, spec⟩ := segments_spec (room := 247) []
      (entries := (List.range (min n (128 - z))).map fun j => zoneBytes (z + j) (s.zone (z + j)))
      (by rw [ne_eq, List.map_eq_nil_iff, List.range_eq_nil]; omega)
      (by
        intro e m
        obtain ⟨j, -, rfl⟩ := List.mem_map.mp m
        rw [zoneBytes_length]
        decide)
    refine ⟨groups, flat, by rw [built], fun g mem => ⟨by have := (spec g mem).1; omega, (spec g mem).2⟩⟩

end Sys2Proof.Machine
end


section
/-! The step without a command, the answer to every command, and the two resets (O2 to O5). -/

namespace Sys2Proof.Machine

/-! ## Every command answers (O3) -/

theorem exec_answers (c : Instr) (s : State) : ∃ t, exec c s = .next t := by
  cases c
  case linePinChange pin level =>
    obtain running | asserted := Bool.eq_false_or_eq_true s.inReset
    · exact ⟨_, if_pos running⟩
    · exact ⟨_, if_neg (by rw [asserted]; exact Bool.noConfusion)⟩
  all_goals exact ⟨_, rfl⟩

/-- Settles O3: a row answers a next state, and what it configures or lets evolve is not the queue of commands. -/
theorem everyCommandAnswersNext : Obligations.EveryCommandAnswersNext := by
  unfold Obligations.EveryCommandAnswersNext
  intro c s
  obtain ⟨t, answers⟩ := exec_answers c s
  refine ⟨t, answers, ?_⟩
  by_cases reset : c = .coldReset
  · subst reset
    cases answers
    rfl
  · exact (exec_configures reset answers).waiting

/-! ## The cold reset (O4) -/

theorem eq_of_mem_replicate {α : Type} {n : Nat} {a b : α} (m : b ∈ (Vector.replicate n a).toList) : b = a := by
  rw [Vector.toList_replicate] at m
  exact List.eq_of_mem_replicate m

/-- While the RESET line is asserted no event acts (log 30). -/
theorem act_inReset {s : State} (asserted : s.inReset = true) (due : Bool) (f : State → State) : act due f s = .next s := by
  rw [act, asserted, Bool.not_true, Bool.and_false]
  rfl

/-- Settles O4: the values of the reset block by block, and what acts while the line is asserted. -/
theorem coldResetValues : Obligations.ColdResetValues := by
  unfold Obligations.ColdResetValues
  intro s
  refine ⟨⟨coldReset s, rfl, fun h m => ?helio, fun c m => ?cls, fun p m => eq_of_mem_replicate m, fun e m => ?entry, rfl,
    fun z m => ?zone, rfl, rfl, rfl, rfl, rfl, rfl, rfl, rfl, rfl, fun l m => ?line, ?rest⟩, fun asserted => ?ends,
    fun running => ?outside, fun asserted => ⟨fun c notReset notEnd notPin => ?other, fun level => ?stow, fun level => ?permit⟩⟩
  case helio =>
    rw [eq_of_mem_replicate m]
    and_intros <;> rfl
  case cls =>
    rw [eq_of_mem_replicate m]
    and_intros <;> rfl
  case entry =>
    rw [eq_of_mem_replicate m]
    and_intros <;> rfl
  case zone =>
    rw [eq_of_mem_replicate m]
    and_intros <;> rfl
  case line =>
    rw [eq_of_mem_replicate m]
    exact ⟨rfl, rfl, rfl, rfl, fun a ma => eq_of_mem_replicate ma⟩
  case rest => and_intros <;> rfl
  case ends =>
    change Host.Outcome.next (if s.inReset then leaveReset s else s) = _
    rw [if_pos asserted]
    rfl
  case outside =>
    change Host.Outcome.next (if s.inReset then leaveReset s else s) = _
    rw [running]
    rfl
  case other =>
    cases c
    case coldReset => exact absurd rfl notReset
    case coldResetEnd => exact absurd rfl notEnd
    case linePinChange pin level => exact absurd rfl (notPin pin level)
    case plantTimeWrap => exact act_inReset asserted s.lastMs fun u => { u with sup := { u.sup with plantTime := 0 } }
    all_goals exact act_inReset asserted _ _
  case stow =>
    change (if s.inReset then _ else _) = _
    rw [if_pos asserted]
    rfl
  case permit =>
    change (if s.inReset then _ else _) = _
    rw [if_pos asserted]
    rfl

/-! ## The warm reset (O5) -/

theorem warm_static (h : Helio) : h.warm.static = h.static ∧ h.warm.st = if h.st = .vacant then .vacant else .idle := by
  unfold Helio.warm Helio.occupied
  by_cases vacant : h.st = .vacant
  · simp [vacant]
  · simp [vacant, Helio.cleared, Helio.static]

theorem warm_cleared {h : Helio} (occupied : h.st ≠ .vacant) : h.warm = h.cleared := by
  rw [Helio.warm, if_pos (by simpa [Helio.occupied] using occupied)]

/-- The end of RESTART's reply is the warm reset, after which the arbiter has nothing to send (R183, R186). -/
theorem exec_frameSent_restart {s : State} {f : TxFrame} {full : Bool} (running : s.inReset = false) (sending : s.link.tx = some f)
    (restart : f.origin = .reply full true []) : exec .frameSent s = .next (warmReset s) := by
  have ended : frameEnd s = warmReset s := by simp only [frameEnd, sending, restart, if_true]
  rw [exec_frameSent running sending, ended]
  exact congrArg Host.Outcome.next (arbiter_rests rfl rfl)

/-- Settles O5: the reply that is marked as RESTART's, and the values of the warm reset. -/
theorem restartLeadsToWarmReset : Obligations.RestartLeadsToWarmReset := by
  unfold Obligations.RestartLeadsToWarmReset
  refine ⟨fun s r asks => ?answer, fun s f full running sending restart => ?reset⟩
  case answer =>
    obtain ⟨running, next, named, carried⟩ := asks
    refine ⟨replyTo r [[0x00#8]] true s, (act_true running _).trans ?_, ?_, Bool.or_true _, ?_, rfl, rfl⟩
    · simp only [carryOut, next, named, carried]
      rfl
    · exact if_pos (Bool.or_true _)
    · simp only [replyTo, replyKind, named]
      rfl
  case reset =>
    refine ⟨warmReset s, exec_frameSent_restart running sending restart, fun i inTable => ?helio, fun k _ => entry_mapEntries (f := AimEntry.warm) rfl rfl k,
      fun z _ => zone_mapZones (f := Zone.warm) rfl rfl z, rfl, rfl, rfl, rfl, rfl, rfl, rfl, rfl, rfl, rfl, rfl, rfl, rfl, rfl,
      fun n inTable => ?line, rfl, rfl, rfl, rfl, running, rfl⟩
    case helio =>
      rw [warmReset_helio s i]
      obtain ⟨static, st⟩ := warm_static (s.helio i)
      refine ⟨static, st, fun occupied => ?_⟩
      rw [warm_cleared occupied]
      and_intros <;> rfl
    case line =>
      have fresh : (warmReset s).line n = {} := line_afterReset rfl ⟨n, inTable⟩
      rw [fresh]
      exact ⟨rfl, rfl, rfl, rfl, fun a m => eq_of_mem_replicate m⟩

/-! ## The step without a command (O2) -/

theorem mem_enqueue {b : Bool} {c d : Instr} : c ∈ enqueue b d ↔ b = true ∧ c = d := by
  cases b <;> simp [enqueue]

theorem line_eq_getElem (s : State) (n : Fin Config.nLine) : s.lines[n] = s.line n := by
  simp [State.line]

/-- The commands that a microsecond brings. -/
theorem mem_expiries (s : State) (c : Instr) : c ∈ s.expiries ↔
    (s.sup.msEnds = true ∧ s.sup.plantTime = 86399999) ∧ c = .plantTimeWrap
    ∨ (s.sup.msEnds = true ∧ s.sweep.timer = .running 1) ∧ c = .sweepTimerExpiry
    ∨ s.sup.silence = 1 ∧ c = .silenceExpiry
    ∨ (∃ n : Fin Config.nLine, (s.line n).silence = some 1 ∧ c = .lineSilenceExpiry n
        ∨ (∃ p, (s.line n).poll = some p ∧ p.phase = .awaiting 1) ∧ c = .replyTimeout n
        ∨ (s.line n).quiet = some 1 ∧ c = .quietTimerExpiry n)
    ∨ s.weather.chain.wraps = true ∧ c = .captureWrap
    ∨ s.weather.sampleLeft = 1 ∧ c = .windSample
    ∨ s.weather.convLeft = 1 ∧ c = .conversionStart
    ∨ s.weather.conv = .converting 1 ∧ c = .dniReadyTimeout
    ∨ s.weather.stowIn.hold = some 1 ∧ c = .lineFilterExpiry .stow
    ∨ s.weather.permitIn.hold = some 1 ∧ c = .lineFilterExpiry .permit
    ∨ s.link.rx.gapEnds = true ∧ c = .plantFrameGapTimeout := by
  simp only [State.expiries, Line.expiries, List.mem_append, List.mem_flatMap, List.mem_finRange, true_and, mem_enqueue, or_assoc,
    reaches0, Bool.and_eq_true, beq_iff_eq, line_eq_getElem, Option.any_eq_true, Config.dayMs, Nat.reduceEqDiff]

theorem chain_wraps_iff (c : Chain) : c.wraps = true ↔ ∃ count ovf, c = .timing count ovf ∧ 65535 ≤ count := by
  cases c with
  | idle => simp [Chain.wraps]
  | timing count ovf => simp [Chain.wraps]

theorem rx_gapEnds_iff (rx : Rx) : rx.gapEnds = true ↔ ∃ bytes, rx = .receiving bytes 1000 := by
  cases rx with
  | hunting => simp [Rx.gapEnds]
  | receiving bytes gap => simp [Rx.gapEnds]

theorem msEnds_iff (u : Sup) : u.msEnds = true ↔ 999 ≤ u.usInMs := by
  rw [Sup.msEnds, decide_eq_true_eq]
  omega

/-- The state a microsecond on, the RESET line not being asserted. -/
theorem tick_of_running {s : State} (running : s.inReset = false) : tick s =
    { s with
      sup := s.sup.tick, sweep := if s.sup.msEnds then { s.sweep with timer := s.sweep.timer.down } else s.sweep
      lines := s.lines.map Line.tick, weather := s.weather.tick, link := { s.link with rx := s.link.rx.tick }
      pending := s.pending ++ s.expiries } := by
  rw [tick, running]
  rfl

theorem tick_ms (u : Sup) :
    (u.usInMs < 999 → u.tick.usInMs = u.usInMs + 1 ∧ u.tick.plantTime = u.plantTime)
    ∧ (999 ≤ u.usInMs → u.tick.usInMs = 0 ∧ u.tick.plantTime = min 86399999 (u.plantTime + 1))
    ∧ u.tick = { u with silence := u.silence - 1, usInMs := u.tick.usInMs, plantTime := u.tick.plantTime } := by
  unfold Sup.tick
  refine ⟨fun within => ?_, fun ends => ?_, ?_⟩
  · rw [if_pos (by omega)]
    exact ⟨rfl, rfl⟩
  · rw [if_neg (by omega)]
    exact ⟨rfl, rfl⟩
  · split <;> rfl

/-- The step with no command waiting (logs 4 and 7). -/
theorem step_idle {s : State} (none_ : s.pending = []) : step s = idleStep s := by
  rw [step, none_]

/-- Settles O2: the microsecond field by field and expiry by expiry, and the access of a request with work left. -/
theorem idleStepIsOneMicrosecond : Obligations.IdleStepIsOneMicrosecond := by
  unfold Obligations.IdleStepIsOneMicrosecond
  intro s none_ running
  rw [step_idle none_]
  refine ⟨fun noWork => ?microsecond, fun r w next left => ?access⟩
  case access =>
    have work : s.workLeft = some w := by rw [State.workLeft, next]; exact left
    rw [idleStep, work, running]
    refine (act_true running _).trans ?_
    simp only [continueRequest, next, left]
  case microsecond =>
    have passes : idleStep s = .next (tick s) := by
      rw [idleStep, noWork]
      rfl
    obtain ⟨within, ends, sup⟩ := tick_ms s.sup
    have mem (c : Instr) : c ∈ (tick s).pending ↔ c ∈ s.expiries := by
      rw [tick_of_running running]
      dsimp only
      rw [none_, List.nil_append]
    refine ⟨tick s, passes, ?_⟩
    simp only [mem, mem_expiries, msEnds_iff, chain_wraps_iff, rx_gapEnds_iff]
    rw [tick_of_running running]
    refine ⟨fun before => ⟨(within before).1, (within before).2, ?_⟩, fun after => ⟨(ends after).1, (ends after).2, ?_⟩, sup,
      fun n inTable => ?_, ?weather, congrArg (fun rx => { s.link with rx := rx }) (by cases s.link.rx <;> rfl), ?_⟩
    · exact if_neg (by rw [msEnds_iff]; omega)
    · exact if_pos ((msEnds_iff _).mpr after)
    · exact line_mapAll Line.tick rfl inTable
    case weather =>
      dsimp only [Weather.tick]
      cases s.weather.chain <;> cases s.weather.conv <;> rfl
    · simp [running]

end Sys2Proof.Machine
end


section
/-! The anemometer, the line filters, the supervisor's timers, and an exception occurrence (O45, O48, O49, O50). -/

namespace Sys2Proof.Machine

/-! ## Capture (R136 to R138) -/

theorem takeEdge_timing {w : Weather} {count ovf : Nat} (timing : w.chain = .timing count ovf) (d : Nat) : takeEdge d w =
    if ovf * 65536 + count < 1000 then w else { w with chain := .timing 0 0, speed := edgeSpeed d (ovf * 65536 + count) } := by
  simp only [takeEdge, timing]

theorem takeWrap_timing {w : Weather} {count ovf : Nat} (timing : w.chain = .timing count ovf) : takeWrap w =
    if 64 ≤ ovf + 1 then { w with chain := .idle, speed := 0 } else { w with chain := .timing 0 (ovf + 1) } := by
  simp only [takeWrap, timing]

/-- Settles O45, by the chain the edge or the wrap finds. -/
theorem anemometerCapture : Obligations.AnemometerCapture := by
  unfold Obligations.AnemometerCapture
  intro s running
  have edge : exec .anemoEdge s = .next (arbiter { s with weather := takeEdge s.limits.pulseDistance s.weather }) := act_true running _
  refine ⟨fun idle => ⟨?_, act_false (by rw [idle]; rfl) _⟩, fun count ovf timing => ?_⟩
  · rw [edge]
    simp only [takeEdge, idle]
  · have wrap : exec .captureWrap s = .next (arbiter { s with weather := takeWrap s.weather }) :=
      act_of running (by rw [timing]; rfl) _
    rw [edge, wrap, takeEdge_timing timing, takeWrap_timing timing]
    refine ⟨fun short => by rw [if_pos short], fun long => by rw [if_neg (by omega)]; rfl, fun more => by rw [if_neg (by omega)],
      fun last => by rw [if_pos (by omega)]⟩

/-! ## The line filters (R147, R148) -/

theorem pinTo_eq (f : Filter) (level : Bool) : f.pinTo level =
    if f.pin = level then f else { f with pin := level, hold := if level = f.level then none else some 10000 } := rfl

/-- With no permit in force before, its composition raises MODE when it comes into force, and nothing else (R159). -/
theorem composePermit_of_out (excepted : Bool) (s : State) :
    composePermit false excepted s = if s.permit = true then notice .mode s else s := by
  unfold composePermit
  cases s.permit <;> rfl

/-- Settles O48: the filter by its pin, the STOW line by the entry into STOWING, the PERMIT line by the permit composed. -/
theorem lineFilters : Obligations.LineFilters := by
  unfold Obligations.LineFilters
  intro s running
  refine ⟨fun level => ?stowPin, fun level => ?permitPin, fun us held => ?stow, fun us held => ?permit⟩
  case stowPin =>
    refine (if_neg (by rw [running]; exact Bool.noConfusion)).trans ((act_true running _).trans ?_)
    simp only [State.setFilter, State.filter, pinTo_eq]
    split <;> rfl
  case permitPin =>
    refine (if_neg (by rw [running]; exact Bool.noConfusion)).trans ((act_true running _).trans ?_)
    simp only [State.setFilter, State.filter, pinTo_eq]
    split <;> rfl
  case stow =>
    obtain ⟨u, changed⟩ : ∃ u, u = ({ s with weather := { s.weather with stowIn := s.weather.stowIn.change } } : State) := ⟨_, rfl⟩
    have acts : exec (.lineFilterExpiry .stow) s = .next (arbiter (stowLineChanged u)) := by
      rw [changed]
      exact act_of running (by rw [State.filter, held]; rfl) _
    refine ⟨_, acts, ?_⟩
    by_cases pin : s.weather.stowIn.pin = true
    · have stow : stowLineChanged u = enterStowing (raiseField .lineStow u) := if_pos (by rw [changed]; exact pin)
      rw [stow, enterStowing_sansPort, enterStowing_weather, enterStowing_exc, enterStowing_link]
      subst changed
      refine ⟨rfl, fun off => absurd (pin.symm.trans off) Bool.noConfusion, fun _ => ⟨raiseField_flags .., fun moves => ?_, fun stays => ?_⟩,
        rfl, rfl⟩
      · exact enterStowing_sup_of_moves moves
      · exact enterStowing_sup_of_stays stays
    · have off : s.weather.stowIn.pin = false := by simpa using pin
      have still : stowLineChanged u = u := if_neg (by rw [changed]; exact pin)
      rw [still]
      subst changed
      exact ⟨rfl, fun _ => rfl, fun on => absurd on pin, rfl, rfl⟩
  case permit =>
    obtain ⟨u, changed⟩ : ∃ u, u = ({ s with weather := { s.weather with permitIn := s.weather.permitIn.change } } : State) := ⟨_, rfl⟩
    have acts : exec (.lineFilterExpiry .permit) s = .next (arbiter (composePermit s.permit true u)) := by
      rw [changed]
      exact act_of running (by rw [State.filter, held]; rfl) _
    refine ⟨_, acts, ?_⟩
    obtain ⟨e, n, composed, flags, -, -, mode⟩ := composePermit_eq s.permit true u
    refine ⟨?_, fun inForce low => ?_, fun out => ?_, ?_, ?_⟩
    · rw [composed, changed]
      rfl
    · have drops : u.permit = false := by
        rw [changed]
        simp [State.permit, Filter.change, low]
      rw [composed]
      refine ⟨drops, ?_, ?_, mode (by rw [inForce, drops]; exact Bool.noConfusion)⟩
      · rw [inForce, drops, changed]
        rfl
      · rw [flags, inForce, drops, changed]
        rfl
    · rw [out, composePermit_of_out, changed]
      split
      · exact ⟨rfl, rfl, fun _ => by simp [raise_pend]⟩
      · exact ⟨rfl, rfl, fun on => absurd on ‹_›⟩
    · rw [composed, changed]
      rfl
    · rw [composed, changed]

/-! ## The supervisor's timers (R164, R165) -/

/-- Settles O49, by the permit composed without the grant. -/
theorem supervisorTimers : Obligations.SupervisorTimers := by
  unfold Obligations.SupervisorTimers
  intro s running
  have wrap : exec .plantTimeWrap s = act s.lastMs (fun u => { u with sup := { u.sup with plantTime := 0 } }) s := rfl
  refine ⟨?silence, fun last => wrap.trans (act_of running (decide_eq_true last) _),
    fun other => wrap.trans (act_false (decide_eq_false other) _)⟩
  case silence =>
    obtain ⟨u, silent⟩ : ∃ u, u = ({ restartSilence (raiseField .linkSilent s) with
      sup := { (restartSilence (raiseField .linkSilent s)).sup with grant := false } } : State) := ⟨_, rfl⟩
    have acts : exec .silenceExpiry s = .next (arbiter (composePermit s.permit true u)) := by
      rw [silent]
      exact act_true running _
    have drops : u.permit = false := by rw [silent]; rfl
    have sup : u.sup = { s.sup with grant := false, silence := s.limits.silenceTimeout * 1000000 } := by rw [silent]; rfl
    have exc : u.exc.flags = s.exc.flags ||| ExcKind.linkSilent.bit := by
      rw [silent]
      exact raiseField_flags ..
    obtain ⟨e, n, composed, flags, -⟩ := composePermit_eq s.permit true u
    refine ⟨_, acts, ?_⟩
    rw [composed]
    refine ⟨?_, ?_, drops, ?_, ?_⟩
    · dsimp only
      rw [sup, drops]
      cases s.permit <;> rfl
    · dsimp only
      rw [flags, exc, drops]
      cases s.permit <;> rfl
    all_goals
      rw [silent]
      rfl

/-! ## An occurrence (R168 to R171) -/

theorem bit_getLsbD (j k : ExcKind) : k.bit.getLsbD j.code = decide (j = k) := by cases j <;> cases k <;> rfl

theorem record_of_masked {e : Exc} {k : ExcKind} (masked : e.masks.getLsbD k.code = true) (now : Nat) (h z c : Option Nat) :
    e.record k now h z c = { e with flags := e.flags ||| k.bit } := if_pos masked

theorem record_of_unmasked {e : Exc} {k : ExcKind} (unmasked : e.masks.getLsbD k.code = false) (now : Nat) (h z c : Option Nat) :
    e.record k now h z c = { e with
      flags := e.flags ||| k.bit, fault := some (e.fault.getD ⟨k, now, h, z, c⟩), count := min 65535 (e.count + 1) } := by
  rw [Exc.record, Exc.masked, unmasked]
  cases e.fault <;> rfl

/-- Every occurrence is taken by the exception unit alike; a heliostat kind writes its record as well. -/
def State.occurred (s : State) (kind : ExcKind) (helio zone slot : Option Nat) (hs : Vector Helio Config.nHelio) : State :=
  setExc (s.exc.record kind s.sup.plantTime helio zone slot) { s with helios := hs }

/-- Settles O50: the exception unit by the mask of the kind, the record by the kind. -/
theorem occurrenceRecorded : Obligations.OccurrenceRecorded := by
  unfold Obligations.OccurrenceRecorded
  intro s t kind helio zone slot occurrence
  obtain ⟨hs, occurred⟩ : ∃ hs, t = s.occurred kind helio zone slot hs := by
    obtain ⟨i, -, rfl, raised⟩ | ⟨rfl, rfl, rfl, raised⟩ := occurrence
    · exact ⟨_, raised⟩
    · exact ⟨s.helios, raised⟩
  obtain ⟨flags, masks⟩ := record_flags s.exc kind s.sup.plantTime helio zone slot
  refine ⟨fun i this => ?record, fun j other => ?others, ?_⟩
  case record =>
    obtain ⟨k, inTable, rfl, raised⟩ | ⟨rfl, -, -, -⟩ := occurrence
    · cases this
      rw [raised, raiseHelio_helio, if_pos ⟨rfl, inTable⟩]
      rfl
    · cases this
  case others =>
    obtain ⟨k, inTable, rfl, raised⟩ | ⟨-, -, -, raised⟩ := occurrence
    · rw [raised, raiseHelio_helio, if_neg fun same => other (congrArg some same.1)]
    · rw [raised, raiseField_helio]
  rw [occurred]
  refine ⟨fun k => ?bits, masks, setExc_alertLaw _ _, fun masked => ?masked, fun unmasked => ?unmasked, ?notices, rfl, rfl⟩
  case bits =>
    refine (congrArg (fun f : BitVec 16 => f.getLsbD k.code) flags).trans ?_
    rw [BitVec.getLsbD_or, bit_getLsbD]
  case masked =>
    rw [State.occurred, record_of_masked masked]
    exact ⟨rfl, rfl⟩
  case unmasked =>
    rw [State.occurred, record_of_unmasked unmasked]
    refine ⟨?_, rfl⟩
    cases s.exc.fault <;> rfl
  case notices =>
    unfold State.occurred setExc
    dsimp only
    cases alertLevel _ _ <;> cases s.exc.alert <;> rfl

end Sys2Proof.Machine
end


section
/-! Field lines: the phases of a poll, the choice of the next, and the replies that no record takes (O39, O40, O42, O44). -/

namespace Sys2Proof.Machine

/-! ## The poll in flight (R112, R119) -/

theorem pollIn_of {s : State} {n : Nat} {p : Poll} (inFlight : (s.line n).poll = some p) (ks : List PhaseKind) :
    s.pollIn n ks = decide (p.phase.kind ∈ ks) := by
  rw [State.pollIn, inFlight]

theorem withPoll_of {s : State} {n : Nat} {p : Poll} (inFlight : (s.line n).poll = some p) (f : Poll → State → State) :
    withPoll n f s = f p s := by
  rw [withPoll, inFlight]

theorem setPhase_of {s : State} {n : Nat} {p : Poll} (inFlight : (s.line n).poll = some p) (ph : PollPhase) :
    setPhase n ph s = s.setLine n { s.line n with poll := some { p with phase := ph } } := by
  rw [setPhase, inFlight]
  rfl

/-- Settles O39, phase by phase. -/
theorem pollPhases : Obligations.PollPhases := by
  unfold Obligations.PollPhases
  intro s n running
  refine ⟨fun us silent => act_of running (by rw [silent]; rfl) _, fun p inFlight sending => ?_, fun p us inFlight awaiting => ?_⟩
  · have due : s.pollIn n [.sending] = true := by rw [pollIn_of inFlight, sending]; rfl
    refine (act_of running due _).trans ?_
    rw [withPoll_of inFlight, setPhase_of inFlight]
  · have due : s.pollIn n [.awaiting] = true := by rw [pollIn_of inFlight, awaiting]; rfl
    refine (act_of running due _).trans ?_
    rw [setPhase_of inFlight]

/-! ## The choice of the next poll (R114 to R117) -/

theorem awaitingUrgent_iff (carried : Option Target) (h : Helio) : awaitingUrgent carried h = true ↔
    ∃ t : Target, h.pendingT = some t ∧ (t.kind = .defocus ∨ t.kind = .stow) ∧ h.lost = false ∧ h.isLocal = false ∧ carried ≠ some t := by
  unfold awaitingUrgent
  cases h.pendingT with
  | none => simp
  | some t => simp [urgent_iff_defocus_or_stow, and_assoc]

theorem pollTarget_of_none {mode : Mode} {h : Helio} (nothing : h.pendingT = none) : pollTarget mode h = none := by
  rw [pollTarget, nothing]

theorem pollTarget_of_some {mode : Mode} {h : Helio} {t : Target} (awake : mode ≠ .quiet) (pending : h.pendingT = some t) :
    pollTarget mode h = if h.isLocal = true ∨ (mode = .halted ∧ t.kind ≠ .defocus ∧ t.kind ≠ .stow) then none else some t := by
  simp only [pollTarget, pending]
  cases h.isLocal with
  | true => simp
  | false =>
    cases mode with
    | halted => cases t.kind <;> rfl
    | quiet => exact absurd rfl awake
    | tracking | stowing | stowed => simp

theorem line_free {s : State} {n : Nat} (noPoll : (s.line n).poll = none) (noSilence : (s.line n).silence = none) :
    (s.line n).free = true := by
  rw [Line.free, noPoll, noSilence]
  rfl

section Choice
variable {s : State} {n : Nat}

theorem choosePoll_of_urgent {a i : Nat} (awake : s.sup.mode ≠ .quiet) (free : (s.line n).free = true)
    (urgent : urgentChoice s n = some (a, i)) : choosePoll n s = startPoll n a i (s.line n).rr s := by
  rw [choosePoll, if_neg (by simp [free, awake]), urgent]

theorem choosePoll_of_round (awake : s.sup.mode ≠ .quiet) (free : (s.line n).free = true) (noUrgent : urgentChoice s n = none)
    {a i : Nat} (next : roundRobin (s.line n).rr (s.ring n) = some (a, i)) : choosePoll n s = startPoll n a i (some a) s := by
  rw [choosePoll, if_neg (by simp [free, awake]), noUrgent, next]

theorem roundRobin_nil (rr : Option Nat) : roundRobin rr [] = none := by cases rr <;> rfl

theorem choosePoll_of_empty (empty : s.ring n = []) : choosePoll n s = s := by
  have noUrgent : urgentChoice s n = none := by rw [urgentChoice, empty]; rfl
  rw [choosePoll, noUrgent, empty, roundRobin_nil]
  exact ite_self _

end Choice

/-- A poll that starts outside QUIET (R112, R114, R116). -/
theorem startPoll_awake {s : State} (awake : s.sup.mode ≠ .quiet) (n a i : Nat) (rr : Option Nat) : ∃ move,
    (move = match (s.helio i).pendingT with
      | some t => if (s.helio i).isLocal = true ∨ (s.sup.mode = .halted ∧ t.kind ≠ .defocus ∧ t.kind ≠ .stow) then none else some t
      | none => none)
    ∧ startPoll n a i rr s = s.setLine n { s.line n with
        poll := some { helio := i, addr := a, move := move, void := false, watch := s.limits.watchInterval
                       timeout := s.limits.replyTimeout, phase := .sending }
        rr := rr
        carried := if move.isSome then (s.line n).carried.setIfInBounds a move else (s.line n).carried } := by
  refine ⟨pollTarget s.sup.mode (s.helio i), ?_, ?_⟩
  · cases pending : (s.helio i).pendingT with
    | none => exact pollTarget_of_none pending
    | some t => exact pollTarget_of_some awake pending
  · unfold startPoll
    cases pollTarget s.sup.mode (s.helio i) <;> rfl

/-- Settles O40: the urgent choice when some member awaits urgent service, else the round robin. -/
theorem pollChoice : Obligations.PollChoice := by
  unfold Obligations.PollChoice
  intro s n awake
  refine ⟨?busy, fun noPoll noSilence members => ?free⟩
  case busy =>
    rintro (poll | silence | empty)
    · exact choosePoll_of_busy (.inl poll)
    · exact choosePoll_of_busy (.inr silence)
    · exact choosePoll_of_empty empty
  case free =>
    have free := line_free noPoll noSilence
    obtain ⟨awaits, test⟩ : ∃ awaits : Nat × Nat → Bool,
      awaits = fun m => awaitingUrgent ((s.line n).carried[m.1]?.getD none) (s.helio m.2) := ⟨_, rfl⟩
    have choice : urgentChoice s n = lowest ((s.ring n).filter awaits) := by rw [test]; rfl
    have agree (urgent : Nat × Nat → Bool) (spec : ∀ m ∈ s.ring n, urgent m = true ↔ ∃ t : Target, (s.helio m.2).pendingT = some t
        ∧ (t.kind = .defocus ∨ t.kind = .stow) ∧ (s.helio m.2).lost = false ∧ (s.helio m.2).isLocal = false
        ∧ ((s.line n).carried[m.1]?.getD none) ≠ some t) (m : Nat × Nat) (inRing : m ∈ s.ring n) : urgent m = awaits m := by
      rw [Bool.eq_iff_iff, spec m inRing, test, awaitingUrgent_iff]
    by_cases some_ : (s.ring n).filter awaits = []
    · obtain ⟨⟨a, i⟩, next, inRing, position⟩ := roundRobin_spec (s.line n).rr (s.ring n) members
      obtain ⟨move, carries, starts⟩ := startPoll_awake awake n a i (some a)
      refine ⟨a, i, some a, inRing, fun urgent spec => ⟨fun ⟨m, isIn, isUrgent⟩ => ?_, fun _ => ⟨rfl, position⟩⟩, move, carries, ?_⟩
      · rw [agree urgent spec m isIn] at isUrgent
        exact absurd isUrgent (List.filter_eq_nil_iff.mp some_ m isIn)
      · rw [← starts]
        exact choosePoll_of_round awake free (choice.trans ((lowest_spec _).1 some_)) next
    · obtain ⟨⟨a, i⟩, least, chosen, below⟩ := (lowest_spec _).2 some_
      obtain ⟨inRing, awaited⟩ := List.mem_filter.mp chosen
      obtain ⟨move, carries, starts⟩ := startPoll_awake awake n a i (s.line n).rr
      refine ⟨a, i, (s.line n).rr, inRing, fun urgent spec => ⟨fun _ => ⟨?_, rfl, fun m isIn isUrgent => ?_⟩, fun none_ => ?_⟩, move, carries, ?_⟩
      · rw [agree urgent spec _ inRing]
        exact awaited
      · exact below m (List.mem_filter.mpr ⟨isIn, by rw [← agree urgent spec m isIn]; exact isUrgent⟩)
      · have out := none_ _ inRing
        rw [agree urgent spec _ inRing, awaited] at out
        cases out
      · rw [← starts]
        exact choosePoll_of_urgent awake free (choice.trans least)

/-! ## The quiet poll (R117) -/

theorem setLine_setLine (s : State) (n : Nat) (l m : Line) : (s.setLine n l).setLine n m = s.setLine n m := by
  simp [State.setLine]

theorem line_setLine_self (s : State) (n : Fin Config.nLine) (l : Line) : (s.setLine n l).line n = l := by
  rw [line_setLine, if_pos ⟨rfl, n.isLt⟩]

theorem quietPoll_of_busy {s : State} {n : Nat} (busy : (s.line n).poll.isSome ∨ (s.line n).silence.isSome ∨ s.ring n = []) :
    quietPoll n s = s := by
  unfold quietPoll
  split
  · rfl
  · next free =>
    obtain poll | silence | empty := busy
    · exact absurd (by rw [Line.free, Option.isNone_eq_false_iff.mpr poll, Bool.false_and]) free
    · exact absurd (by rw [Line.free, Option.isNone_eq_false_iff.mpr silence, Bool.and_false]) free
    · rw [empty, roundRobin_nil]

/-- Settles O44: the timer reloaded, then the quiet poll of the line so left. -/
theorem quietTimerPollsByQuery : Obligations.QuietTimerPollsByQuery := by
  unfold Obligations.QuietTimerPollsByQuery
  intro s n us running quiet timer
  obtain ⟨u, reloaded⟩ : ∃ u, u = s.setLine n { s.line n with quiet := some (s.limits.quietInterval * 1000) } := ⟨_, rfl⟩
  have acts : exec (.quietTimerExpiry n) s = .next (arbiter (quietPoll n u)) := by
    rw [reloaded]
    exact act_of running (by rw [quiet, timer]; rfl) _
  have line : u.line n = { s.line n with quiet := some (s.limits.quietInterval * 1000) } := by
    rw [reloaded]
    exact line_setLine_self ..
  have ring : u.ring n = s.ring n := by rw [reloaded]; rfl
  rw [acts]
  refine ⟨fun busy => ?_, fun noPoll noSilence members => ?_⟩
  · rw [quietPoll_of_busy (by rw [line, ring]; exact busy), reloaded]
  · obtain ⟨⟨a, i⟩, next, inRing, position⟩ := roundRobin_spec (s.line n).rr (s.ring n) members
    refine ⟨a, i, inRing, position, ?_⟩
    have free : ¬(u.line n).free = false := by
      rw [line_free (by rw [line]; exact noPoll) (by rw [line]; exact noSilence)]
      exact Bool.noConfusion
    have query : pollTarget u.sup.mode (u.helio i) = none := by
      rw [show u.sup.mode = .quiet by rw [reloaded]; exact quiet]
      unfold pollTarget
      split
      · rfl
      · exact ite_self _
    have starts : quietPoll n u = startPoll n a i (some a) u := by
      rw [quietPoll, if_neg free, ring, show (u.line n).rr = (s.line n).rr by rw [line], next]
    rw [starts, startPoll, query, line]
    subst reloaded
    rw [setLine_setLine]
    rfl

/-! ## Replies that no record takes (R119, R120) -/

theorem replySpan_length (q : Reported) (addr : Nat) (loc acc : Bool) : (replySpan q addr loc acc).length = 9 := by
  simp [replySpan]

theorem crcMatches_replyBytes (q : Reported) (addr : Nat) (loc acc : Bool) : crcMatches (replyBytes q addr loc acc) = true :=
  crcMatches_self _

theorem readReply_addr {addr : Nat} (q : Reported) (fits : addr < 256) (loc acc : Bool) : (readReply (replyBytes q addr loc acc)).addr = addr := by
  simp only [readReply, replyBytes, replySpan, List.append_assoc]
  exact fieldNat_byte1 _ fits

section Reply
variable {s : State} {n : Fin Config.nLine} {p : Poll}

/-- Eleven bytes complete a reply that has begun to be received (R119). -/
theorem exec_driveReply_of_receiving (running : s.inReset = false) (inFlight : (s.line n).poll = some p) (receiving : p.phase = .receiving)
    {bytes : List Byte} (complete : bytes.length = 11) : exec (.driveReply n bytes) s = .next (arbiter (completePoll n p bytes s)) := by
  have due : (decide (bytes.length = 11) && s.pollIn n [.awaiting, .receiving]) = true := by
    rw [complete, pollIn_of inFlight, receiving]
    rfl
  refine (act_of running due _).trans ?_
  rw [withPoll_of inFlight]

theorem exec_replyGapTimeout_of_receiving (running : s.inReset = false) (inFlight : (s.line n).poll = some p)
    (receiving : p.phase = .receiving) : exec (.replyGapTimeout n) s = .next (arbiter (missPoll n p s)) := by
  have due : s.pollIn n [.receiving] = true := by rw [pollIn_of inFlight, receiving]; rfl
  refine (act_of running due _).trans ?_
  rw [withPoll_of inFlight]

end Reply

theorem completePoll_of_mismatch {n : Nat} {p : Poll} {bytes : List Byte} {s : State}
    (mismatch : ¬(crcMatches bytes = true ∧ (readReply bytes).addr = p.addr)) : completePoll n p bytes s = missPoll n p s :=
  if_neg (by simpa using mismatch)

theorem completePoll_of_match {n : Nat} {p : Poll} {bytes : List Byte} {s : State} (check : crcMatches bytes = true)
    (addr : (readReply bytes).addr = p.addr) :
    completePoll n p bytes s = endPoll n (if p.void then s else replyAccess p.helio p.move (readReply bytes) s) :=
  if_pos (by simp [check, addr])

/-- Settles O42: a mismatch misses as a gap does, and a void poll ends alone. -/
theorem driveReplyClassified : Obligations.DriveReplyClassified := by
  unfold Obligations.DriveReplyClassified
  intro s n p running inFlight receiving
  rw [exec_replyGapTimeout_of_receiving running inFlight receiving]
  refine ⟨fun span b c length wrong => ?_, fun q addr loc acc fits other => ?_, fun q loc acc fits void => ?_⟩
  · rw [exec_driveReply_of_receiving running inFlight receiving (by simp [length]), completePoll_of_mismatch]
    rw [crcMatches_two]
    simp [wrong]
  · rw [exec_driveReply_of_receiving running inFlight receiving (by simp [replyBytes, replySpan_length]), completePoll_of_mismatch]
    rw [readReply_addr q fits]
    exact fun both => other both.2
  · rw [exec_driveReply_of_receiving running inFlight receiving (by simp [replyBytes, replySpan_length]),
      completePoll_of_match (crcMatches_replyBytes ..) (readReply_addr q fits ..), if_pos void]

end Sys2Proof.Machine
end


section
/-! The sweep timer and the sweep's position, and the two protective passes (O31, O36, O37). -/

namespace Sys2Proof.Machine

/-! ## The sweep timer (R90 to R94) -/

/-- A sweep start writes what `State.SweepStarted` names. -/
theorem State.SweepStarted.tables {v u : State} (started : v.SweepStarted u) :
    u = { v with zones := u.zones, sweep := u.sweep, sup := u.sup, exc := u.exc, notices := u.notices } := by
  obtain ⟨_, _, _, _, _, _, _, _, _, _, rest⟩ := started
  have h := congrArg (fun t : State => { t with zones := u.zones, sweep := u.sweep, sup := u.sup, exc := u.exc, notices := u.notices }) rest
  exact h

/-- Settles O31: a timer that does not run, a sweep start, an overrun. -/
theorem sweepTimerExpiryResult : Obligations.SweepTimerExpiryResult := by
  unfold Obligations.SweepTimerExpiryResult
  intro s running
  have acts (ms : Nat) (tracking : s.sup.mode = .tracking) (timer : s.sweep.timer = .running ms) :
      exec .sweepTimerExpiry s = .next (arbiter (sweepTimerExpired s)) := act_of running (by rw [tracking, timer]; rfl) _
  refine ⟨fun still => act_false ?_ _, fun ms tracking timer noSweep => ?start, fun ms p tracking timer going => ?overrun⟩
  · obtain timer | timer := still
    · rw [timer]
      rfl
    · rw [timer]
      rfl
  case start =>
    have starts : sweepTimerExpired s = sweepStart s := by rw [sweepTimerExpired, noSweep]
    rw [acts ms tracking timer, starts]
    have started := sweepStart_started s
    generalize sweepStart s = u at started
    have tables := started.tables
    obtain ⟨sun, before, evaluated, rfl, sweep, zones, sup, -, -, flags, -⟩ := started
    refine ⟨u, sun, rfl, evaluated, sweep, zones, by rw [sup], by rw [sup], flags, ?_, by rw [tables]⟩
    rw [tables, sup]
    rfl
  case overrun =>
    have overruns : sweepTimerExpired s = raiseField .sweepOverrun { s with sweep := { s.sweep with timer := .expired, startWaiting := true } } := by
      rw [sweepTimerExpired, going]
    rw [acts ms tracking timer, overruns]
    exact ⟨_, rfl, rfl, raiseField_flags .., rfl, rfl⟩

/-! ## The sweep's position (R91, R96) -/

theorem exec_vacantIndexPassed {s : State} {i : Nat} (running : s.inReset = false) (going : s.sweep.progress = some i)
    (vacant : (s.helio i).st = .vacant) : exec .vacantIndexPassed s = .next (arbiter (passIndex i s)) := by
  have due : s.atVacant = true := by
    rw [State.atVacant, going]
    simp [Helio.occupied, vacant]
  refine (act_of running due _).trans ?_
  rw [passPosition, going]

/-- Settles O36, by the three ways an index is passed. -/
theorem vacantIndexPassedResult : Obligations.VacantIndexPassedResult := by
  unfold Obligations.VacantIndexPassedResult
  intro s i running going vacant
  rw [exec_vacantIndexPassed running going vacant]
  obtain ⟨more, on⟩ | ⟨last, noStart, ends⟩ | ⟨last, waiting, tracking, starts⟩ := passIndex_cases i s
  · refine ⟨fun _ => by rw [on], fun last => ?_, fun last => ?_⟩
    all_goals
      change i + 1 < 2048 at more
      omega
  · refine ⟨fun more => ?_, fun _ _ => by rw [ends], fun _ waits tracks => absurd ⟨waits, tracks⟩ noStart⟩
    change 2048 ≤ i + 1 at last
    omega
  · refine ⟨fun more => ?_, fun _ no => ?_, fun _ _ _ => ?_⟩
    · change 2048 ≤ i + 1 at last
      omega
    · obtain no | no := no
      · rw [waiting] at no
        cases no
      · exact absurd tracking no
    · rw [starts]
      have started := sweepStart_started { s with sweep := { s.sweep with progress := none, startWaiting := false } }
      generalize sweepStart _ = u at started
      have tables := started.tables
      obtain ⟨sun, before, -, -, sweep, -⟩ := started
      refine ⟨u, rfl, by rw [sweep], by rw [sweep], by rw [sweep], by rw [sweep], by rw [tables], by rw [tables]⟩

/-! ## The stow pass (R155) -/

theorem State.Evolves.nextOccupied {s t : State} (e : s.Evolves t) (i : Nat) : t.nextOccupied i = s.nextOccupied i :=
  nextOccupied_congr (fun j => by
    have same := e.occupied_iff j
    rw [Bool.eq_iff_iff]
    simpa [Helio.occupied] using same) i

theorem stowReach_eq (i : Nat) (s : State) : stowReach i s =
    offer i (stowTarget (((enterLeaving i s).clearIdle i).classOf i)) ((enterLeaving i s).clearIdle i) := rfl

theorem clearIdle_of_idle {s : State} {i : Nat} (idle : (s.helio i).st = .idle) :
    s.clearIdle i = s.setHelio i { s.helio i with st := .clear, lag := 0 } := by
  rw [State.clearIdle, if_pos idle, toState_clear, if_neg (by rw [idle]; exact HState.noConfusion)]

theorem clearIdle_of_other {s : State} {i : Nat} (other : (s.helio i).st ≠ .idle) : s.clearIdle i = s := if_neg other

/-- The record as the stow pass leaves it, the STOW apart: off the receiver, and awake. -/
def Helio.reached (h : Helio) : Helio :=
  if h.holder then { h with st := .leaving, lag := 0 } else if h.st = .idle then { h with st := .clear, lag := 0 } else h

theorem reachedOff_helio {s : State} {i : Nat} (inTable : i < Config.nHelio) (j : Nat) :
    ((enterLeaving i s).clearIdle i).helio j = if j = i then (s.helio i).reached else s.helio j := by
  unfold Helio.reached
  cases holder : (s.helio i).holder with
  | true =>
    have record : (enterLeaving i s).helio i = { s.helio i with st := .leaving, lag := 0 } := by
      rw [enterLeaving_helio, if_pos ⟨rfl, holder⟩]
    rw [clearIdle_of_other (by rw [record]; exact HState.noConfusion), enterLeaving_helio, holder]
    simp [eq_comm]
  | false =>
    rw [enterLeaving_of_not _ _ holder]
    by_cases idle : (s.helio i).st = .idle
    · rw [clearIdle_of_idle idle, helio_setHelio]
      simp [eq_comm, idle, inTable]
    · rw [clearIdle_of_other idle]
      split
      · next this =>
        rw [this]
        simp
      · rfl

theorem clearIdle_eq (s : State) (i : Nat) : ∃ hs, s.clearIdle i = { s with helios := hs } := by
  unfold State.clearIdle
  split
  · exact ⟨_, rfl⟩
  · exact ⟨_, rfl⟩

theorem reached_occupied {h : Helio} (occupied : h.st ≠ .vacant) : h.reached.occupied = true := by
  unfold Helio.reached
  split
  · rfl
  · split
    · rfl
    · simpa [Helio.occupied] using occupied

theorem reached_cls (h : Helio) : h.reached.cls = h.cls := by
  unfold Helio.reached
  split
  · rfl
  · split <;> rfl

/-- The stow pass on an occupied record: off the receiver, awake, and its class's STOW pending (R155). -/
theorem stowReach_helio {s : State} {i : Nat} (occupied : (s.helio i).st ≠ .vacant) (j : Nat) : (stowReach i s).helio j =
    if j = i then { (s.helio i).reached with pendingT := some (stowTarget (s.classOf i)) } else s.helio j := by
  have off := reachedOff_helio (s := s) (lt_of_not_vacant s i occupied)
  have here := off i
  rw [if_pos rfl] at here
  have cls : ((enterLeaving i s).clearIdle i).classOf i = s.classOf i := by
    rw [State.classOf, here, reached_cls]
    obtain ⟨_, cleared⟩ := clearIdle_eq (enterLeaving i s) i
    rw [cleared]
    exact enterLeaving_driveClass ..
  rw [stowReach_eq, offer_helio, off j, here, cls, post_stowTarget, reached_occupied occupied]
  simp only [and_true, eq_comm (a := i)]
  split <;> rfl

/-- The stow pass writes records and leaving sums alone (R81, R155). -/
theorem stowReach_zone (i : Nat) (s : State) {z : Nat} (inTable : z < Config.nZone) : (stowReach i s).zone z = { s.zone z with
    leaving := (s.zone z).leaving + if (s.helio i).holder then amountIn z (s.helio i).claims else 0 } := by
  obtain ⟨_, cleared⟩ := clearIdle_eq (enterLeaving i s) i
  rw [stowReach_eq, offer_zone, ← enterLeaving_zone s i _ inTable, cleared]
  rfl

theorem stowReach_rest (i : Nat) (s : State) : { stowReach i s with helios := s.helios, zones := s.zones } = s := by
  rw [stowReach_eq]
  obtain ⟨_, offered⟩ := offer_eq ((enterLeaving i s).clearIdle i) i (stowTarget (((enterLeaving i s).clearIdle i).classOf i))
  obtain ⟨_, cleared⟩ := clearIdle_eq (enterLeaving i s) i
  obtain ⟨_, _, left⟩ := enterLeaving_eq s i
  rw [offered, cleared, left]

theorem exec_stowPassStep {s : State} {p : Nat} (running : s.inReset = false) (pass : s.sup.stowPass = some p) :
    exec .stowPassStep s = .next (arbiter (stowPassFrom p s)) := by
  refine (act_of running (by rw [pass]; rfl) _).trans ?_
  rw [pass]
  rfl

theorem stowPassFrom_some {s : State} {p i : Nat} (next : s.nextOccupied p = some i) : stowPassFrom p s =
    if (s.nextOccupied (i + 1)).isSome then { stowReach i s with sup := { (stowReach i s).sup with stowPass := some (i + 1) } }
    else stowTest { stowReach i s with sup := { (stowReach i s).sup with stowPass := none } } := by
  have after := (State.Proceeds.stowReach i s).toEvolves.nextOccupied (i + 1)
  simp only [stowPassFrom, next]
  rw [after]
  cases s.nextOccupied (i + 1) <;> rfl

/-! ## The defocus pass (R161, R162) -/

theorem defocusTarget_enterLeaving (c : DriveClass) (i : Nat) (s : State) :
    defocusTarget c ((enterLeaving i s).helio i) = defocusTarget c (s.helio i) := by
  rw [enterLeaving_helio]
  split <;> rfl

theorem classOf_enterLeaving (i j : Nat) (s : State) : (enterLeaving i s).classOf j = s.classOf j :=
  (State.Proceeds.enterLeaving i s).toEvolves.classOf j

/-- A DEFOCUS offer is posted over any pending target but a STOW (R35). -/
theorem post_defocus {d : Nat} {t : Target} (defocus : t.kind = .defocus) (h : Helio) :
    (∀ p, h.pendingT = some p → p.kind = .stow → h.post d t = h)
    ∧ ((∀ p, h.pendingT = some p → p.kind ≠ .stow) → h.post d t = { h with pendingT := some t }) := by
  refine ⟨fun p pending stow => post_refused pending (by rw [defocus, stow]; decide), fun noStow => post_prevails (by rw [defocus]; rfl) ?_⟩
  intro p pending
  rw [defocus]
  exact rank_le_of_ne_stow (k := .defocus) rfl (noStow p pending)

/-- The defocus pass on a holder (R161). -/
theorem defocusReach_helio {s : State} {i : Nat} (holder : (s.helio i).holder = true) (j : Nat) : (defocusReach i s).helio j =
    if j = i then ({ s.helio i with st := .leaving, lag := 0 } : Helio).post (s.classOf i).deadband (defocusTarget (s.classOf i) (s.helio i))
    else s.helio j := by
  have here : (enterLeaving i s).helio i = { s.helio i with st := .leaving, lag := 0 } := by
    rw [enterLeaving_helio, if_pos ⟨rfl, holder⟩]
  have reaches : defocusReach i s = offer i (defocusTarget (s.classOf i) (s.helio i)) (enterLeaving i s) := by
    rw [defocusReach, if_pos holder]
    dsimp only
    rw [classOf_enterLeaving, defocusTarget_enterLeaving]
  rw [reaches, offer_helio, here, classOf_enterLeaving]
  by_cases this : j = i
  · rw [if_pos this, if_pos ⟨this.symm, rfl⟩]
  · rw [if_neg this, if_neg fun both => this both.1.symm, enterLeaving_helio, if_neg fun both => this both.1.symm]

theorem defocusReach_of_other {s : State} {i : Nat} (other : (s.helio i).holder = false) : defocusReach i s = s :=
  if_neg (by rw [other]; exact Bool.noConfusion)

theorem defocusReach_zone {i z : Nat} {s : State} (holder : (s.helio i).holder = true) (inTable : z < Config.nZone) :
    (defocusReach i s).zone z = { s.zone z with leaving := (s.zone z).leaving + amountIn z (s.helio i).claims } := by
  rw [defocusReach, if_pos holder]
  dsimp only
  rw [offer_zone, enterLeaving_zone _ _ _ inTable, if_pos holder]

theorem defocusReach_rest (i : Nat) (s : State) : { defocusReach i s with helios := s.helios, zones := s.zones } = s := by
  unfold defocusReach
  split
  · obtain ⟨_, offered⟩ := offer_eq (enterLeaving i s) i (defocusTarget ((enterLeaving i s).classOf i) ((enterLeaving i s).helio i))
    obtain ⟨_, _, left⟩ := enterLeaving_eq s i
    dsimp only
    rw [offered, left]
  · rfl

theorem exec_defocusPassStep {s : State} {p : Nat} (running : s.inReset = false) (pass : s.sup.defocusPass = some p) :
    exec .defocusPassStep s = .next (arbiter (defocusPassFrom p s)) := by
  refine (act_of running (by rw [pass]; rfl) _).trans ?_
  rw [pass]
  rfl

theorem defocusPassFrom_some {s : State} {p i : Nat} (next : s.nextOccupied p = some i) : defocusPassFrom p s =
    { defocusReach i s with sup := { (defocusReach i s).sup with
        defocusPass := if (s.nextOccupied (i + 1)).isSome then some (i + 1) else none } } := by
  have after := (State.Proceeds.defocusReach i s).toEvolves.nextOccupied (i + 1)
  simp only [defocusPassFrom, next]
  rw [after]
  cases s.nextOccupied (i + 1) <;> rfl

/-- Settles O37: each pass by the record it reaches and by whether another follows. -/
theorem protectivePassSteps : Obligations.ProtectivePassSteps := by
  unfold Obligations.ProtectivePassSteps
  refine ⟨fun s p running pass => ?stow, fun s p running pass => ?defocus⟩
  case stow =>
    rw [exec_stowPassStep running pass]
    refine ⟨fun none_ => by rw [stowPassFrom, none_]; rfl, fun i next => ?_⟩
    obtain ⟨-, -, occupied, -⟩ := nextOccupied_some next
    have notVacant : (s.helio i).st ≠ .vacant := by simpa [Helio.occupied] using occupied
    have records := stowReach_helio notVacant
    refine ⟨stowReach i s, by rw [stowPassFrom_some next], ?_, fun j other => ?_, fun z inTable => stowReach_zone i s inTable,
      stowReach_rest i s⟩
    · rw [records, if_pos rfl]
      unfold Helio.reached Helio.holder
      cases st : (s.helio i).st with
      | vacant => exact absurd st notVacant
      | idle | clear | approach | onTarget | retarget | leaving => simp [st]
    · rw [records, if_neg other]
  case defocus =>
    rw [exec_defocusPassStep running pass]
    refine ⟨fun none_ => by rw [defocusPassFrom, none_]; rfl, fun i next => ?_⟩
    refine ⟨defocusReach i s, by rw [defocusPassFrom_some next], defocusReach_of_other, fun holder => ⟨?_, fun j other => ?_,
      fun z inTable => defocusReach_zone holder inTable, defocusReach_rest i s⟩⟩
    · rw [defocusReach_helio holder, if_pos rfl]
      obtain ⟨kept, posted⟩ := post_defocus (d := (s.classOf i).deadband) (defocusTarget_kind (s.classOf i) (s.helio i))
        { s.helio i with st := .leaving, lag := 0 }
      cases pending : (s.helio i).pendingT with
      | none => exact posted fun p e => nomatch pending.symm.trans e
      | some t =>
        by_cases stow : t.kind = .stow
        · rw [kept t pending stow]
          simp [stow, pending]
        · rw [posted fun p e => by cases pending.symm.trans e; exact stow]
          simp [stow]
    · rw [defocusReach_helio holder, if_neg other]

end Sys2Proof.Machine
end


section
/-! The visit of the next occupied record (O32 to O35): which of the orders of Figure 5-2 it takes, and what each leaves. -/

namespace Sys2Proof.Machine

/-! ## The orders of Figure 5-2 -/

theorem exec_visit {s : State} {i : Nat} (running : s.inReset = false) (target : s.visitTarget = some i) :
    exec .visit s = .next (arbiter (passIndex i (visitRecord i s))) := by
  refine (act_of running (by rw [target]; rfl) _).trans ?_
  rw [visitNext, target]

theorem visitTarget_occupied {s : State} {i : Nat} (target : s.visitTarget = some i) : (s.helio i).st ≠ .vacant := by
  obtain ⟨p, -, next⟩ := Option.bind_eq_some_iff.mp target
  obtain ⟨-, -, occupied, -⟩ := nextOccupied_some next
  simpa [Helio.occupied] using occupied

section Orders
variable {s : State} {i : Nat}

theorem visitRecord_passes (outside : s.sup.mode ≠ .tracking ∨ (s.helio i).lost = true ∨ (s.helio i).isLocal = true) :
    visitRecord i s = s := by
  rw [visitRecord_eq, if_pos outside]

theorem visitRecord_decides (tracking : s.sup.mode = .tracking) (heard : (s.helio i).lost = false) (remote : (s.helio i).isLocal = false) :
    visitRecord i s = visitDecide i (s.clearIdle i) := by
  rw [visitRecord_eq, if_neg (by simp [tracking, heard, remote])]

theorem visitDecide_of_outOfService (duty : (s.helio i).duty = .outOfService) : visitDecide i s = visitOutOfService i s := if_pos duty

theorem visitDecide_of_standby (duty : (s.helio i).duty ≠ .outOfService)
    (held : (s.helio i).st = .leaving ∨ (s.helio i).latched = true ∨ (s.helio i).faulted = true) : visitDecide i s = offerStandby i s := by
  rw [visitDecide, if_neg duty, if_pos held]

theorem visitDecide_of_ineligible (duty : (s.helio i).duty ≠ .outOfService)
    (free : ¬((s.helio i).st = .leaving ∨ (s.helio i).latched = true ∨ (s.helio i).faulted = true)) (out : s.eligible = false) :
    visitDecide i s = visitIneligible i s := by
  rw [visitDecide, if_neg duty, if_neg free, if_pos out]

theorem visitDecide_of_eligible {sun : SnapSun} (duty : (s.helio i).duty ≠ .outOfService)
    (free : ¬((s.helio i).st = .leaving ∨ (s.helio i).latched = true ∨ (s.helio i).faulted = true)) (eligible : s.eligible = true)
    (snap : s.sweep.snapSun = some sun) : visitDecide i s = visitEligible sun i s := by
  rw [visitDecide, if_neg duty, if_neg free, if_neg (by rw [eligible]; exact Bool.noConfusion), snap]

theorem visitEligible_of_clear (sun : SnapSun) (clear : (s.helio i).st = .clear) : visitEligible sun i s = visitClear sun i s := by
  simp only [visitEligible, clear]

theorem visitEligible_of_holder (sun : SnapSun) {held : Reservation} (tracks : (s.helio i).st = .approach ∨ (s.helio i).st = .onTarget)
    (holds : (s.helio i).primary = some held) : visitEligible sun i s = visitHolder sun i held s := by
  obtain st | st := tracks
  · simp only [visitEligible, st, holds]
  · simp only [visitEligible, st, holds]

theorem visitEligible_of_retarget (sun : SnapSun) {held : Reservation} (retarget : (s.helio i).st = .retarget)
    (holds : (s.helio i).transfer = some held) : visitEligible sun i s = visitRetarget sun i held s := by
  simp only [visitEligible, retarget, holds]

end Orders

/-! ## An IDLE record made CLEAR (R97) -/

theorem clearIdle_helio {s : State} {i : Nat} (inTable : i < Config.nHelio) : (s.clearIdle i).helio i =
    if (s.helio i).st = .idle then { s.helio i with st := .clear, lag := 0 } else s.helio i := by
  by_cases idle : (s.helio i).st = .idle
  · rw [clearIdle_of_idle idle, helio_setHelio_self _ _ _ inTable, if_pos idle]
  · rw [clearIdle_of_other idle, if_neg idle]

theorem clearIdle_classOf (s : State) (i : Nat) : (s.clearIdle i).classOf i = s.classOf i :=
  (State.Proceeds.clearIdle i s).toEvolves.classOf i

theorem clearIdle_eligible (s : State) (i : Nat) : (s.clearIdle i).eligible = s.eligible := by
  obtain ⟨_, cleared⟩ := clearIdle_eq s i
  rw [cleared]
  rfl

theorem holder_iff {h : Helio} : h.holder = true ↔ h.st = .approach ∨ h.st = .onTarget ∨ h.st = .retarget := by
  unfold Helio.holder
  cases h.st <;> simp

theorem holder_of_idle {h : Helio} (idle : h.st = .idle ∨ h.st = .clear) : h.holder = false := by
  unfold Helio.holder
  obtain st | st := idle
  · rw [st]
  · rw [st]

/-- What order 2 leaves of a record: every field but state and lag count, and no holder made or lost. -/
theorem clearIdle_record {s : State} {i : Nat} (inTable : i < Config.nHelio) :
    ∃ lag, (s.clearIdle i).helio i = { s.helio i with st := if (s.helio i).st = .idle then .clear else (s.helio i).st, lag := lag }
      ∧ ((s.clearIdle i).helio i).holder = (s.helio i).holder := by
  rw [clearIdle_helio inTable]
  by_cases idle : (s.helio i).st = .idle
  · simp only [idle, if_true]
    exact ⟨0, rfl, (holder_of_idle (.inl idle)).symm⟩
  · simp only [idle, if_false]
    exact ⟨(s.helio i).lag, rfl, trivial⟩

/-! ## Visits without an admission (R97 to R101) -/

theorem offer_stow {s : State} {i : Nat} (occupied : (s.helio i).st ≠ .vacant) (c : DriveClass) :
    offer i (stowTarget c) s = s.setHelio i { s.helio i with pendingT := some (stowTarget c) } := by
  rw [offer_occupied s i _ occupied, post_stowTarget]

/-- Settles O34, by the order that the visit takes. -/
theorem visitWithoutAdmission : Obligations.VisitWithoutAdmission := by
  unfold Obligations.VisitWithoutAdmission
  intro s c i running target cleared
  have occupied := visitTarget_occupied target
  have inTable := lt_of_not_vacant s i occupied
  have order2 : s.clearIdle i = c := by
    rw [cleared]
    split
    · next idle => exact clearIdle_of_idle idle
    · next other => exact clearIdle_of_other other
  obtain ⟨lag, record, holder⟩ := clearIdle_record (s := s) inTable
  have cls := clearIdle_classOf s i
  have eligible := clearIdle_eligible s i
  have still := (State.Proceeds.clearIdle i s).toEvolves.occupied_iff i
  rw [order2] at record holder cls eligible still
  have duty : (c.helio i).duty = (s.helio i).duty := by rw [record]
  rw [exec_visit running target]
  refine ⟨fun outside => by rw [visitRecord_passes outside], fun tracking heard remote => ?_⟩
  rw [visitRecord_decides tracking heard remote, order2]
  refine ⟨fun oos => ?oos, fun serves held => ?standby, fun serves notLeaving unlatched sound out => ?ineligible⟩
  case oos =>
    have at_ : (c.helio i).commanded = (s.helio i).commanded ∧ (c.helio i).pendingT = (s.helio i).pendingT := by rw [record]; exact ⟨rfl, rfl⟩
    rw [visitDecide_of_outOfService (duty.trans oos), visitOutOfService]
    have occupied' : ((enterLeaving i c).helio i).st ≠ .vacant :=
      ((State.Proceeds.enterLeaving i c).toEvolves.occupied_iff i).mpr (still.mpr occupied)
    refine ⟨enterLeaving i c, fun holds => enterLeaving_leaves (holder.trans holds), fun none_ => enterLeaving_of_not _ _ (holder.trans none_), ?_⟩
    dsimp only
    rw [offer_stow occupied', cls, at_.1, at_.2]
  case standby =>
    have held' : (c.helio i).st = .leaving ∨ (c.helio i).latched = true ∨ (c.helio i).faulted = true := by
      rw [record]
      exact held.imp_left fun leaving => by simp [leaving]
    rw [visitDecide_of_standby (by rw [duty]; exact serves) held']
    exact ⟨_, rfl, offerStandby_offered c i⟩
  case ineligible =>
    have free : ¬((c.helio i).st = .leaving ∨ (c.helio i).latched = true ∨ (c.helio i).faulted = true) := by
      rw [record, unlatched, sound]
      dsimp only
      split <;> simp [notLeaving]
    have out' : c.eligible = false := by
      rw [eligible, Bool.eq_false_iff]
      intro on
      obtain ⟨-, permit, sun, snap, fresh, high⟩ := (eligible_iff s).mp on
      obtain off | bad := out
      · exact Bool.noConfusion (permit.symm.trans off)
      · obtain stale | low := bad sun snap
        · exact Bool.noConfusion (stale.symm.trans fresh)
        · exact Bool.noConfusion (low.symm.trans high)
    rw [visitDecide_of_ineligible (by rw [duty]; exact serves) free out', visitIneligible]
    refine ⟨_, rfl, fun idle => ?_, fun tracks => ?_⟩
    · rw [if_neg (by rw [holder, holder_of_idle idle]; exact Bool.noConfusion)]
      exact offerStandby_offered c i
    · have holds := holder_iff.mpr tracks
      have same : c = s := by
        rw [← order2]
        exact clearIdle_of_other fun idle => by rw [idle] at tracks; simp at tracks
      rw [same, if_pos holds]
      exact sendOff_sentOff holds

/-! ## Eligible visits (R95, R102 to R108) -/

/-- A visit that reaches orders 6 to 8 (Figure 5-2). -/
structure State.Visits (s : State) (i : Nat) (sun : SnapSun) : Prop where
  running  : s.inReset = false
  target   : s.visitTarget = some i
  tracking : s.sup.mode = .tracking
  permit   : s.permit = true
  snap     : s.sweep.snapSun = some sun
  good     : sun.flags = ⟨false, false⟩
  heard    : (s.helio i).lost = false
  remote   : (s.helio i).isLocal = false
  free     : (s.helio i).latched = false
  sound    : (s.helio i).faulted = false
  serves   : (s.helio i).duty ≠ .outOfService

namespace State.Visits
variable {s : State} {i : Nat} {sun : SnapSun}

theorem inTable (v : s.Visits i sun) : i < Config.nHelio := lt_of_not_vacant s i (visitTarget_occupied v.target)

theorem exec_eq (v : s.Visits i sun) (notLeaving : (s.helio i).st ≠ .leaving) :
    exec .visit s = .next (arbiter (passIndex i (visitEligible sun i (s.clearIdle i)))) := by
  obtain ⟨lag, record, -⟩ := clearIdle_record (s := s) v.inTable
  have eligible : (s.clearIdle i).eligible = true := by
    rw [clearIdle_eligible, eligible_iff]
    exact ⟨v.tracking, v.permit, sun, v.snap, by rw [v.good], by rw [v.good]⟩
  have free : ¬(((s.clearIdle i).helio i).st = .leaving ∨ ((s.clearIdle i).helio i).latched = true
      ∨ ((s.clearIdle i).helio i).faulted = true) := by
    rw [record, v.free, v.sound]
    dsimp only
    split <;> simp [notLeaving]
  have snap : (s.clearIdle i).sweep.snapSun = some sun := by rw [clearIdle_sweep]; exact v.snap
  rw [exec_visit v.running v.target, visitRecord_decides v.tracking v.heard v.remote,
    visitDecide_of_eligible (by rw [record]; exact v.serves) free eligible snap]

theorem exec_of_holder (v : s.Visits i sun) {held : Reservation} (tracks : (s.helio i).st = .approach ∨ (s.helio i).st = .onTarget)
    (holds : (s.helio i).primary = some held) : exec .visit s = .next (arbiter (passIndex i (visitHolder sun i held s))) := by
  have other : (s.helio i).st ≠ .leaving ∧ (s.helio i).st ≠ .idle := by obtain st | st := tracks <;> rw [st] <;> decide
  rw [v.exec_eq other.1, clearIdle_of_other other.2, visitEligible_of_holder sun tracks holds]

theorem exec_of_retarget (v : s.Visits i sun) {held : Reservation} (retarget : (s.helio i).st = .retarget)
    (holds : (s.helio i).transfer = some held) : exec .visit s = .next (arbiter (passIndex i (visitRetarget sun i held s))) := by
  have other : (s.helio i).st ≠ .leaving ∧ (s.helio i).st ≠ .idle := by rw [retarget]; decide
  rw [v.exec_eq other.1, clearIdle_of_other other.2, visitEligible_of_retarget sun retarget holds]

end State.Visits

/-! ## Admission (R73, R75) -/

/-- Record i written, and its new reservation taken into the sums and the user counts. -/
def State.admitted (s : State) (i : Nat) (h : Helio) (r : Reservation) : State := incUser r.slot ((s.setHelio i h).charge r)

theorem admitPrimary_admitted (s : State) (i : Nat) (r : Reservation) :
    admitPrimary i r s = s.admitted i ({ s.helio i with primary := some r }.toState .approach) r := rfl

theorem admitTransfer_admitted (s : State) (i : Nat) (r : Reservation) :
    admitTransfer i r s = s.admitted i ({ s.helio i with transfer := some r }.toState .retarget) r := rfl

theorem admits_iff (z : Zone) (c : Nat) : admits z c = true ↔ z.committed + c ≤ z.active := decide_eq_true_iff

theorem admitted_spec {s : State} {i : Nat} (h : Helio) {r : Reservation} (inTable : i < Config.nHelio) (zone : r.zone < Config.nZone)
    (slot : r.slot < Config.nSlot) :
    (s.admitted i h r).helio i = h ∧ (∀ j, j ≠ i → (s.admitted i h r).helio j = s.helio j)
    ∧ (s.admitted i h r).zone r.zone = { s.zone r.zone with committed := (s.zone r.zone).committed + r.amount }
    ∧ (∀ y, y ≠ r.zone → (s.admitted i h r).zone y = s.zone y)
    ∧ (s.admitted i h r).entry r.slot = { s.entry r.slot with users := (s.entry r.slot).users + 1 }
    ∧ (∀ m, m ≠ r.slot → (s.admitted i h r).entry m = s.entry m)
    ∧ { s.admitted i h r with helios := s.helios, zones := s.zones, entries := s.entries } = s := by
  refine ⟨helio_setHelio_self s i h inTable, fun j other => helio_setHelio_ne s i j h other, ?_, fun y other => ?_, ?_, fun m other => ?_, rfl⟩
  · exact (zone_setZone ..).trans (if_pos ⟨rfl, zone⟩)
  · exact (zone_setZone ..).trans (if_neg fun both => other both.1.symm)
  · exact (incUser_entry ..).trans (if_pos ⟨rfl, slot⟩)
  · exact (incUser_entry ..).trans (if_neg fun both => other both.1.symm)

/-! ## The visit of a CLEAR record (R102) -/

section Clear
variable {s : State} {i k : Nat} {sun : SnapSun}

theorem visitClear_of_miss (l : s.lookup i s.sweep.snapStrategy (s.helio i).duty = .miss) :
    visitClear sun i s = offerStandby i (raiseMiss i s) := by
  simp only [visitClear, l]

theorem visitClear_of_denied (l : s.lookup i s.sweep.snapStrategy (s.helio i).duty = .denied k) :
    visitClear sun i s = offerStandby i (raiseAt .aimDenied i k s) := by
  simp only [visitClear, l]

theorem visitClear_of_error (l : s.lookup i s.sweep.snapStrategy (s.helio i).duty = .found k) {f : AimFail}
    (fails : s.receiverFor sun i k = .error f) : visitClear sun i s = offerStandby i (raiseAt f.kind i k s) := by
  simp only [visitClear, l, fails]

theorem visitClear_of_aim (l : s.lookup i s.sweep.snapStrategy (s.helio i).duty = .found k) {t : Target} {cosq : Nat}
    (aims : s.receiverFor sun i k = .ok (t, cosq)) : visitClear sun i s =
    if admits (s.zone (s.entry k).zone) (s.contributionOf i cosq) then
      offer i t (admitPrimary i ⟨(s.entry k).zone, k, s.contributionOf i cosq⟩ s)
    else offerStandby i (raiseAt .flux i k s) := by
  simp only [visitClear, l, aims]

end Clear

theorem setHelio_setHelio (s : State) (i : Nat) (h g : Helio) : (s.setHelio i h).setHelio i g = s.setHelio i g := by
  simp [State.setHelio]

/-- An aim does not depend on the state of the record or on its lag count (R7). -/
theorem receiverFor_setHelio {s : State} {i : Nat} (inTable : i < Config.nHelio) (st : HState) (lag : Nat) (sun : SnapSun) (k : Nat) :
    (s.setHelio i { s.helio i with st := st, lag := lag }).receiverFor sun i k = s.receiverFor sun i k := by
  rw [State.receiverFor, State.classOf, helio_setHelio_self _ _ _ inTable]
  rfl

/-- Settles O32: the first order that fails, or the admission. -/
theorem visitOfClearRecord : Obligations.VisitOfClearRecord := by
  unfold Obligations.VisitOfClearRecord
  intro s c i sun running target tracking permit snap good st heard remote free sound serves cleared
  have v : s.Visits i sun := ⟨running, target, tracking, permit, snap, good, heard, remote, free, sound, serves⟩
  have record : c.helio i = { s.helio i with st := .clear, lag := if (s.helio i).st = .clear then (s.helio i).lag else 0 } := by
    rw [cleared]
    exact helio_setHelio_self _ _ _ v.inTable
  have order2 : s.clearIdle i = c := by
    obtain idle | clear := st
    · rw [clearIdle_of_idle idle, cleared, if_neg (by rw [idle]; exact HState.noConfusion)]
    · rw [clearIdle_of_other (by rw [clear]; exact HState.noConfusion), cleared, if_pos clear, ← clear]
      exact (setHelio_self s i).symm
  have visit : exec .visit s = .next (arbiter (passIndex i (visitClear sun i c))) := by
    rw [v.exec_eq (by obtain st | st := st <;> rw [st] <;> exact HState.noConfusion), order2, visitEligible_of_clear sun (by rw [record])]
  have lookups : c.lookup i c.sweep.snapStrategy (c.helio i).duty = s.lookup i s.sweep.snapStrategy (s.helio i).duty := by
    rw [record, cleared]
    rfl
  have aims (k : Nat) : c.receiverFor sun i k = s.receiverFor sun i k := by
    rw [cleared]
    exact receiverFor_setHelio v.inTable ..
  have entries (k : Nat) : c.entry k = s.entry k := by rw [cleared]; rfl
  have zones (z : Nat) : c.zone z = s.zone z := by rw [cleared]; rfl
  rw [visit]
  refine ⟨fun miss => ?_, fun k denied => ?_, fun k found => ⟨fun f fails => ?_, fun t cosq z need ok zone amount => ?_⟩⟩
  · rw [visitClear_of_miss (lookups.trans miss)]
  · rw [visitClear_of_denied (lookups.trans denied), raiseAt, entries]
  · rw [visitClear_of_error (lookups.trans found) ((aims k).trans fails), raiseAt, entries]
  · have need' : c.contributionOf i cosq = need := by
      rw [amount, State.contributionOf, record, cleared]
      rfl
    rw [visitClear_of_aim (lookups.trans found) ((aims k).trans ok), need', entries, ← zone, zones]
    refine ⟨fun exceeds => ?_, fun within inRange => ?_⟩
    · rw [if_neg (by rw [admits_iff]; omega), raiseAt, entries, zone]
    · rw [if_pos ((admits_iff ..).mpr within), admitPrimary_admitted]
      have joined : c.admitted i ({ c.helio i with primary := some ⟨z, k, need⟩ }.toState .approach) ⟨z, k, need⟩ =
          s.admitted i { s.helio i with st := .approach, lag := 0, primary := some ⟨z, k, need⟩ } ⟨z, k, need⟩ := by
        rw [toState_eq, record, cleared, State.admitted, setHelio_setHelio]
        rfl
      rw [joined]
      exact ⟨_, rfl, admitted_spec _ v.inTable inRange (lookup_inMap found)⟩

/-! ## A refresh (R76, R103, R106) -/

theorem refreshes_iff (w : State) (held : Reservation) (need : Nat) :
    refreshes (w.zone held.zone) held.amount need = true ↔ w.RefreshPasses held need := decide_eq_true_iff

section Stay
variable {s : State} {i k : Nat} {sun : SnapSun} {held : Reservation}

theorem stayAt_of_error {f : AimFail} (fails : s.receiverFor sun i k = .error f) :
    stayAt sun i k held s = sendOff i (raiseAt f.kind i k s) := by
  simp only [stayAt, fails]

theorem stayAt_of_aim {t : Target} {cosq : Nat} (aims : s.receiverFor sun i k = .ok (t, cosq)) : stayAt sun i k held s =
    if refreshes (s.zone held.zone) held.amount (s.contributionOf i cosq) then offer i t (refreshPrimary i (s.contributionOf i cosq) s)
    else sendOff i (raiseHelio .flux i (some held.zone) (some k) s) := by
  simp only [stayAt, aims]

end Stay

theorem raiseHelio_holder (k : ExcKind) (i j : Nat) (z c : Option Nat) (s : State) :
    ((raiseHelio k i z c s).helio j).holder = (s.helio j).holder := by
  rw [raiseHelio_helio]
  split
  · next here =>
    rw [← here.1]
    rfl
  · rfl

theorem refreshPrimary_refreshed {w : State} {i : Nat} {held : Reservation} (holds : (w.helio i).primary = some held)
    (zone : held.zone < Config.nZone) (need : Nat) :
    w.Refreshed (refreshPrimary i need w) i { w.helio i with primary := some { held with amount := need } } held need := by
  rw [refreshPrimary_of_some holds]
  exact reprice_refreshed held need _ (lt_of_primary holds) zone

/-- A stay at the slot held keeps the aim, or sends the holder off (R103, R106). -/
theorem stayAt_keepsAim {w : State} {i : Nat} {held : Reservation} (sun : SnapSun) (holds : (w.helio i).primary = some held)
    (holder : (w.helio i).holder = true) (zone : held.zone < Config.nZone) : w.KeepsAim (stayAt sun i held.slot held w) sun i held := by
  have off (k : ExcKind) (z c : Option Nat) : (raiseHelio k i z c w).SentOff (sendOff i (raiseHelio k i z c w)) i :=
    sendOff_sentOff (by rw [raiseHelio_holder]; exact holder)
  refine ⟨fun f fails => ?_, fun t cosq need aims amount => ?_⟩
  · rw [stayAt_of_error fails]
    exact off ..
  · rw [stayAt_of_aim aims, show w.contributionOf i cosq = need from amount.symm]
    refine ⟨fun passes => ?_, fun fails => ?_⟩
    · rw [if_pos ((refreshes_iff ..).mpr passes)]
      exact ⟨_, rfl, refreshPrimary_refreshed holds zone need⟩
    · rw [if_neg (by rw [refreshes_iff]; exact fails)]
      exact off ..

section Holder
variable {s : State} {i k : Nat} {sun : SnapSun} {held : Reservation}

theorem visitHolder_of_miss (l : s.lookup i s.sweep.snapStrategy (s.helio i).duty = .miss) :
    visitHolder sun i held s = sendOff i (raiseMiss i s) := by
  simp only [visitHolder, l]

theorem visitHolder_of_denied (l : s.lookup i s.sweep.snapStrategy (s.helio i).duty = .denied k) :
    visitHolder sun i held s = sendOff i (raiseAt .aimDenied i k s) := by
  simp only [visitHolder, l]

theorem visitHolder_of_found (l : s.lookup i s.sweep.snapStrategy (s.helio i).duty = .found k) : visitHolder sun i held s =
    if k = held.slot then stayAt sun i k held s
    else if (s.entry k).zone = held.zone then transferTo sun i k held s else crossTo sun i k held s := by
  simp only [visitHolder, l]

theorem visitHolder_of_own (l : s.lookup i s.sweep.snapStrategy (s.helio i).duty = .found held.slot) :
    visitHolder sun i held s = stayAt sun i held.slot held s := by
  rw [visitHolder_of_found l, if_pos rfl]

end Holder

/-- Settles O33, by the refresh at the slot held. -/
theorem visitRefreshesHolder : Obligations.VisitRefreshesHolder := by
  unfold Obligations.VisitRefreshesHolder
  intro s i sun held t cosq need running target tracking permit snap good tracks heard remote free sound serves holds noTransfer zone found aims amount
  have v : s.Visits i sun := ⟨running, target, tracking, permit, snap, good, heard, remote, free, sound, serves⟩
  have holder : (s.helio i).holder = true := holder_iff.mpr (tracks.imp_right .inl)
  rw [v.exec_of_holder tracks holds, visitHolder_of_own found, stayAt_of_aim aims, show s.contributionOf i cosq = need from amount.symm]
  refine ⟨fun passes => ?_, fun fails => ?_⟩
  · rw [if_pos ((refreshes_iff ..).mpr passes)]
    exact ⟨_, rfl, refreshPrimary_refreshed holds zone need⟩
  · rw [if_neg (by rw [refreshes_iff]; exact fails)]
    obtain ⟨w, raised⟩ : ∃ w, w = raiseHelio .flux i (some held.zone) (some held.slot) s := ⟨_, rfl⟩
    have record : w.helio i = { s.helio i with lastExc := some .flux, latched := !s.exc.masked .flux } := by
      rw [raised, raiseHelio_helio, if_pos ⟨rfl, v.inTable⟩, Helio.recordExc, free]
      rfl
    have others (j : Nat) (other : j ≠ i) : w.helio j = s.helio j := by
      rw [raised, raiseHelio_helio, if_neg fun both => other both.1.symm]
    have zones (y : Nat) : w.zone y = s.zone y := by rw [raised]; rfl
    have claims : (w.helio i).claims = [held] := by
      rw [record]
      simp only [Helio.claims, holds, noTransfer]
      rfl
    have holder' : (w.helio i).holder = true := by rw [raised, raiseHelio_holder]; exact holder
    obtain ⟨left, leftOthers, leftZones, rest⟩ := enterLeaving_leaves holder'
    rw [← raised]
    refine ⟨enterLeaving i w, rfl, ?_, fun j other => ?_, ?_, fun y other => ?_, ?_, ?_, ?_⟩
    · rw [left, record]
    · rw [leftOthers j other, others j other]
    · rw [leftZones _ zone, claims, zones]
      simp
    · by_cases inRange : y < Config.nZone
      · rw [leftZones y inRange, claims, zones, List.filter_cons_of_neg (by simpa using Ne.symm other)]
        rfl
      · rw [zone_of_ge inRange, zone_of_ge inRange]
    · rw [enterLeaving_exc, raised, raiseHelio_flags]
    · have tables := congrArg (fun u : State => ({ u with helios := (enterLeaving i w).helios, zones := (enterLeaving i w).zones }).sansPort) rest
      refine tables.trans ?_
      rw [enterLeaving_exc, raised]
      rfl
    · rw [enterLeaving_link, raised]
      rfl

/-! ## Moves within a zone and across zones (R80, R104 to R106) -/

section Moves
variable {s : State} {i k : Nat} {sun : SnapSun} {held : Reservation}

theorem transferTo_of_error {f : AimFail} (fails : s.receiverFor sun i k = .error f) :
    transferTo sun i k held s = sendOff i (raiseAt f.kind i k s) := by
  simp only [transferTo, fails]

theorem transferTo_of_aim {t : Target} {cosq : Nat} (aims : s.receiverFor sun i k = .ok (t, cosq)) : transferTo sun i k held s =
    if refreshes ((moveSlot i k s).zone held.zone) held.amount (s.contributionOf i cosq) then
      offer i t ((refreshPrimary i (s.contributionOf i cosq) (moveSlot i k s)).setHelio i
        (((refreshPrimary i (s.contributionOf i cosq) (moveSlot i k s)).helio i).toState .approach))
    else sendOff i (raiseHelio .flux i (some held.zone) (some k) (moveSlot i k s)) := by
  simp only [transferTo, aims]

theorem crossTo_of_error {f : AimFail} (fails : s.receiverFor sun i k = .error f) :
    crossTo sun i k held s = sendOff i (raiseAt f.kind i k s) := by
  simp only [crossTo, fails]

theorem crossTo_of_aim {t : Target} {cosq : Nat} (aims : s.receiverFor sun i k = .ok (t, cosq)) : crossTo sun i k held s =
    if admits (s.zone (s.entry k).zone) (s.contributionOf i cosq) then
      offer i t (admitTransfer i ⟨(s.entry k).zone, k, s.contributionOf i cosq⟩ s)
    else if s.exc.masked .flux ∧ (s.entry held.slot).st = .enabled then stayAt sun i held.slot held (raiseAt .flux i k s)
    else sendOff i (raiseAt .flux i k s) := by
  simp only [crossTo, aims]

/-- A slot moved leaves the slot held and joins the other (R80). -/
theorem moveSlot_left (holds : (s.helio i).primary = some held) (other : k ≠ held.slot) : ∃ left : State,
    (s.setHelio i { s.helio i with primary := some { held with slot := k } }).SlotLeft left held.slot
    ∧ moveSlot i k s = left.setEntry k { s.entry k with users := (s.entry k).users + 1 } := by
  refine ⟨_, decUser_slotLeft _ _, ?_⟩
  rw [moveSlot_of_some holds, incUser, decUser_entry, if_neg fun both => other both.1.symm]
  rfl

theorem moveSlot_zone (holds : (s.helio i).primary = some held) (z : Nat) : (moveSlot i k s).zone z = s.zone z := by
  rw [moveSlot_of_some holds, incUser_zone, decUser_zone, setHelio_zone]

theorem moveSlot_holder (holds : (s.helio i).primary = some held) : ((moveSlot i k s).helio i).holder = (s.helio i).holder := by
  rw [moveSlot_helio holds]
  rfl

/-- The refresh that follows a move within the zone, the record being APPROACH then (R104). -/
theorem transferred_refreshed (holds : (s.helio i).primary = some held) (zone : held.zone < Config.nZone) (need : Nat) :
    (moveSlot i k s).Refreshed ((refreshPrimary i need (moveSlot i k s)).setHelio i
        (((refreshPrimary i need (moveSlot i k s)).helio i).toState .approach)) i
      { s.helio i with
        st := .approach, lag := if (s.helio i).st = .approach then (s.helio i).lag else 0, primary := some ⟨held.zone, k, need⟩ }
      held need := by
  have moved : ((moveSlot i k s).helio i).primary = some { held with slot := k } := by rw [moveSlot_helio holds]
  rw [refreshPrimary_helio moved, moveSlot_helio holds, toState_eq, refreshPrimary_of_some moved]
  have order (h g : Helio) : State.setHelio (reprice held.zone held.amount need ((moveSlot i k s).setHelio i h)) i g =
      reprice held.zone held.amount need ((moveSlot i k s).setHelio i g) := by
    rw [← setHelio_setHelio (moveSlot i k s) i h g]
    rfl
  rw [order]
  exact reprice_refreshed held need _ (lt_of_primary holds) zone

theorem visitRetarget_of_miss (l : s.lookup i s.sweep.snapStrategy (s.helio i).duty = .miss) :
    visitRetarget sun i held s = sendOff i (raiseMiss i s) := by
  simp only [visitRetarget, l]

theorem visitRetarget_of_denied (l : s.lookup i s.sweep.snapStrategy (s.helio i).duty = .denied k) :
    visitRetarget sun i held s = sendOff i (raiseAt .aimDenied i k s) := by
  simp only [visitRetarget, l]

theorem visitRetarget_of_other (l : s.lookup i s.sweep.snapStrategy (s.helio i).duty = .found k) (other : k ≠ held.slot) :
    visitRetarget sun i held s = sendOff i s := by
  simp only [visitRetarget, l, if_neg other]

theorem visitRetarget_of_error (l : s.lookup i s.sweep.snapStrategy (s.helio i).duty = .found held.slot) {f : AimFail}
    (fails : s.receiverFor sun i held.slot = .error f) : visitRetarget sun i held s = sendOff i (raiseAt f.kind i held.slot s) := by
  simp only [visitRetarget, l, fails, if_true]

theorem visitRetarget_of_aim (l : s.lookup i s.sweep.snapStrategy (s.helio i).duty = .found held.slot) {t : Target} {cosq : Nat}
    (aims : s.receiverFor sun i held.slot = .ok (t, cosq)) : visitRetarget sun i held s =
    if refreshes (s.zone held.zone) held.amount (s.contributionOf i cosq) then offer i t (refreshTransfer i (s.contributionOf i cosq) s)
    else sendOff i (raiseHelio .flux i (some held.zone) (some held.slot) s) := by
  simp only [visitRetarget, l, aims, if_true]

/-- A move within the zone, refreshed or sent off from there (R104). -/
theorem transferTo_spec {t : Target} {cosq : Nat} (holds : (s.helio i).primary = some held) (holder : (s.helio i).holder = true)
    (zone : held.zone < Config.nZone) (other : k ≠ held.slot) (aims : s.receiverFor sun i k = .ok (t, cosq)) : ∃ left m : State,
    (s.setHelio i { s.helio i with primary := some { held with slot := k } }).SlotLeft left held.slot
    ∧ m = left.setEntry k { s.entry k with users := (s.entry k).users + 1 }
    ∧ (s.RefreshPasses held (s.contributionOf i cosq) → ∃ u : State, transferTo sun i k held s = offer i t u ∧ m.Refreshed u i { s.helio i with
        st := .approach, lag := if (s.helio i).st = .approach then (s.helio i).lag else 0
        primary := some ⟨held.zone, k, s.contributionOf i cosq⟩ } held (s.contributionOf i cosq))
    ∧ (¬ s.RefreshPasses held (s.contributionOf i cosq) →
        (raiseHelio .flux i (some held.zone) (some k) m).SentOff (transferTo sun i k held s) i) := by
  obtain ⟨left, slotLeft, moved⟩ := moveSlot_left holds other
  have test : refreshes ((moveSlot i k s).zone held.zone) held.amount (s.contributionOf i cosq) = true ↔
      s.RefreshPasses held (s.contributionOf i cosq) := by
    rw [moveSlot_zone holds]
    exact refreshes_iff ..
  refine ⟨left, moveSlot i k s, slotLeft, moved, fun passes => ?_, fun fails => ?_⟩
  · rw [transferTo_of_aim aims, if_pos (test.mpr passes)]
    exact ⟨_, rfl, transferred_refreshed holds zone _⟩
  · rw [transferTo_of_aim aims, if_neg (by rw [test]; exact fails)]
    exact sendOff_sentOff (by rw [raiseHelio_holder, moveSlot_holder holds]; exact holder)

/-- A transfer reservation created (R75, R105). -/
theorem admitTransfer_spec {r : Reservation} (holder : (s.helio i).st = .approach ∨ (s.helio i).st = .onTarget)
    (zone : r.zone < Config.nZone) (slot : r.slot < Config.nSlot) :
    (admitTransfer i r s).helio i = { s.helio i with st := .retarget, lag := 0, transfer := some r }
    ∧ (∀ j, j ≠ i → (admitTransfer i r s).helio j = s.helio j)
    ∧ (admitTransfer i r s).zone r.zone = { s.zone r.zone with committed := (s.zone r.zone).committed + r.amount }
    ∧ (∀ y, y ≠ r.zone → (admitTransfer i r s).zone y = s.zone y)
    ∧ (admitTransfer i r s).entry r.slot = { s.entry r.slot with users := (s.entry r.slot).users + 1 }
    ∧ (∀ j, j ≠ r.slot → (admitTransfer i r s).entry j = s.entry j)
    ∧ { admitTransfer i r s with helios := s.helios, zones := s.zones, entries := s.entries } = s := by
  have other : (s.helio i).st ≠ .vacant ∧ (s.helio i).st ≠ .retarget := by obtain st | st := holder <;> rw [st] <;> decide
  rw [admitTransfer_admitted, toState_eq, if_neg other.2]
  exact admitted_spec _ (lt_of_not_vacant s i other.1) zone slot

end Moves

/-- Settles O35: the holder's visit by what its lookup finds, then that of a record on its way to another zone. -/
theorem visitMovesHolder : Obligations.VisitMovesHolder := by
  unfold Obligations.VisitMovesHolder
  intro s i sun running target tracking permit snap good heard remote free sound serves
  have v : s.Visits i sun := ⟨running, target, tracking, permit, snap, good, heard, remote, free, sound, serves⟩
  have off (holder : (s.helio i).holder = true) (kind : ExcKind) (z c : Option Nat) :
      (raiseHelio kind i z c s).SentOff (sendOff i (raiseHelio kind i z c s)) i :=
    sendOff_sentOff (by rw [raiseHelio_holder]; exact holder)
  have missed (holder : (s.helio i).holder = true) : (raiseMiss i s).SentOff (sendOff i (raiseMiss i s)) i :=
    sendOff_sentOff ((raiseHelio_holder .aimMiss i i none none s).trans holder)
  refine ⟨fun held tracks holds _ zone => ?holder, fun old held retarget _ holds zone => ?retarget⟩
  case holder =>
    have holder : (s.helio i).holder = true := holder_iff.mpr (tracks.imp_right .inl)
    refine ⟨_, v.exec_of_holder tracks holds, fun miss => ?_, fun k denied => ?_, fun own => ?_, fun k found other =>
      ⟨fun f fails => ?_, fun t cosq need aims amount => ⟨fun same => ?_, fun z here cross => ⟨fun within inRange => ?_, fun exceeds w raised => ?_⟩⟩⟩⟩
    · rw [visitHolder_of_miss miss]
      exact missed holder
    · rw [visitHolder_of_denied denied]
      exact off holder ..
    · rw [visitHolder_of_own own]
      exact stayAt_keepsAim sun holds holder zone
    · rw [visitHolder_of_found found, if_neg other, transferTo_of_error fails, crossTo_of_error fails, ite_self]
      exact off holder ..
    · rw [visitHolder_of_found found, if_neg other, if_pos same, amount]
      exact transferTo_spec holds holder zone other aims
    · subst here
      rw [visitHolder_of_found found, if_neg other, if_neg cross, crossTo_of_aim aims, show s.contributionOf i cosq = need from amount.symm,
        if_pos ((admits_iff ..).mpr within)]
      exact ⟨_, rfl, admitTransfer_spec tracks inRange (lookup_inMap found)⟩
    · subst here
      rw [visitHolder_of_found found, if_neg other, if_neg cross, crossTo_of_aim aims, show s.contributionOf i cosq = need from amount.symm,
        if_neg (by rw [admits_iff]; omega), raiseAt, ← raised]
      have record : (w.helio i).primary = some held ∧ (w.helio i).holder = true := by
        rw [raised, raiseHelio_holder, raiseHelio_helio, if_pos ⟨rfl, v.inTable⟩]
        exact ⟨holds, holder⟩
      refine ⟨fun keeps => ?_, fun leaves => ?_⟩
      · rw [if_pos keeps]
        exact stayAt_keepsAim sun record.1 record.2 zone
      · rw [if_neg (by rintro ⟨masked, enabled⟩; simp [masked, enabled] at leaves)]
        exact sendOff_sentOff record.2
  case retarget =>
    have holder : (s.helio i).holder = true := holder_iff.mpr (.inr (.inr retarget))
    refine ⟨_, v.exec_of_retarget retarget holds, fun miss => ?_, fun k denied => ?_, fun k found other => ?_, fun own =>
      ⟨fun f fails => ?_, fun t cosq need aims amount => ⟨fun passes => ?_, fun fails => ?_⟩⟩⟩
    · rw [visitRetarget_of_miss miss]
      exact missed holder
    · rw [visitRetarget_of_denied denied]
      exact off holder ..
    · rw [visitRetarget_of_other found other]
      exact sendOff_sentOff holder
    · rw [visitRetarget_of_error own fails]
      exact off holder ..
    · rw [visitRetarget_of_aim own aims, show s.contributionOf i cosq = need from amount.symm, if_pos ((refreshes_iff ..).mpr passes),
        refreshTransfer_of_some holds]
      exact ⟨_, rfl, reprice_refreshed held need _ v.inTable zone⟩
    · rw [visitRetarget_of_aim own aims, show s.contributionOf i cosq = need from amount.symm, if_neg (by rw [refreshes_iff]; exact fails)]
      exact off holder ..

end Sys2Proof.Machine
end


section
/-! The end of a poll: a miss, and the corrective action that a lost drive calls for (O41). -/

namespace Sys2Proof.Machine

/-! ## The corrective action (R129) -/

/-- Record i taken off the receiver: a holder goes LEAVING, and a record that holds a reservation is offered DEFOCUS (R129). -/
def State.offReceiver (w : State) (i : Nat) : State :=
  if (w.helio i).reserved then offer i (defocusTarget (w.classOf i) (w.helio i)) (enterLeaving i w) else enterLeaving i w

/-- What the corrective action reports, in its order (R129). -/
def State.reports (s : State) (i : Nat) (c : Conditions) (z k : Option Nat) : State :=
  raiseWhen c.fault .driveFault i z k (raiseWhen c.lag .lag i z k (raiseWhen c.lost .driveLost i z k s))

theorem reserved_enterLeaving (i : Nat) (w : State) : ((enterLeaving i w).helio i).reserved = (w.helio i).reserved := by
  rw [enterLeaving_helio]
  split <;> rfl

theorem corrective_of_none {c : Conditions} (quiet : c.any = false) (i : Nat) (s : State) : corrective i c s = s := if_pos quiet

theorem corrective_of_any {c : Conditions} (arose : c.any = true) (i : Nat) (s : State) : corrective i c s =
    (s.reports i c ((s.helio i).primary.map (·.zone)) ((s.helio i).primary.map (·.slot))).offReceiver i := by
  unfold corrective
  rw [if_neg (by rw [arose]; exact Bool.noConfusion)]
  dsimp only
  rw [reserved_enterLeaving, classOf_enterLeaving, defocusTarget_enterLeaving]
  rfl

section OffReceiver
variable (w : State) (i : Nat)

theorem offReceiver_cases : w.offReceiver i = enterLeaving i w
    ∨ w.offReceiver i = offer i (defocusTarget (w.classOf i) (w.helio i)) (enterLeaving i w) := (ite_eq_or_eq ..).symm

theorem offReceiver_eq : ∃ hs zs, w.offReceiver i = { w with helios := hs, zones := zs } := by
  obtain ⟨_, _, left⟩ := enterLeaving_eq w i
  obtain e | e := offReceiver_cases w i
  · exact ⟨_, _, e.trans left⟩
  · obtain ⟨_, offered⟩ := offer_eq (enterLeaving i w) i (defocusTarget (w.classOf i) (w.helio i))
    rw [e, offered, left]
    exact ⟨_, _, rfl⟩

theorem offReceiver_zone {z : Nat} (inTable : z < Config.nZone) : (w.offReceiver i).zone z = { w.zone z with
    leaving := (w.zone z).leaving + if (w.helio i).holder then amountIn z (w.helio i).claims else 0 } := by
  rw [← enterLeaving_zone w i z inTable]
  obtain e | e := offReceiver_cases w i
  · rw [e]
  · rw [e, offer_zone]

theorem offReceiver_helio_ne {j : Nat} (other : j ≠ i) : (w.offReceiver i).helio j = w.helio j := by
  have left : (enterLeaving i w).helio j = w.helio j := by rw [enterLeaving_helio, if_neg fun both => other both.1.symm]
  obtain e | e := offReceiver_cases w i
  · rw [e, left]
  · rw [e, offer_helio_ne _ _ _ _ other, left]

/-- The posting rule reads the pending and the commanded target alone (R34, R35). -/
theorem post_congr {g h : Helio} (pending : g.pendingT = h.pendingT) (commanded : g.commanded = h.commanded) (d : Nat) (t : Target) :
    g.post d t = { g with pendingT := (h.post d t).pendingT } := by
  have test : suppressed d g.commanded t = suppressed d h.commanded t := by rw [commanded]
  cases at_ : h.pendingT with
  | none =>
    rw [post_of_pending_none (pending.trans at_), post_of_pending_none at_, test]
    split
    · rw [← pending]
    · rfl
  | some p =>
    rw [post_of_pending_some (pending.trans at_), post_of_pending_some at_]
    split
    · rfl
    · rw [← pending]

theorem offReceiver_helio : (w.offReceiver i).helio i = { w.helio i with
    st := if (w.helio i).holder then .leaving else (w.helio i).st
    lag := if (w.helio i).holder then 0 else (w.helio i).lag
    pendingT := if (w.helio i).reserved = true ∧ (w.helio i).st ≠ .vacant then
        ((w.helio i).post (w.classOf i).deadband (defocusTarget (w.classOf i) (w.helio i))).pendingT
      else (w.helio i).pendingT } := by
  have left : (enterLeaving i w).helio i = { w.helio i with
      st := if (w.helio i).holder then .leaving else (w.helio i).st, lag := if (w.helio i).holder then 0 else (w.helio i).lag } := by
    rw [enterLeaving_helio]
    cases (w.helio i).holder <;> simp
  unfold State.offReceiver
  cases reserved : (w.helio i).reserved with
  | false =>
    rw [if_neg Bool.noConfusion, left]
    simp
  | true =>
    have occupied : ((enterLeaving i w).helio i).st ≠ .vacant ↔ (w.helio i).st ≠ .vacant :=
      (State.Proceeds.enterLeaving i w).toEvolves.occupied_iff i
    rw [if_pos rfl]
    by_cases vacant : (w.helio i).st = .vacant
    · rw [offer_vacant _ _ _ (by by_contra h; exact occupied.mp h vacant), left]
      simp [vacant]
    · rw [offer_helio, if_pos ⟨rfl, by simpa [Helio.occupied] using occupied.mpr vacant⟩, classOf_enterLeaving, left]
      simp only [vacant, ne_eq, not_false_eq_true, and_self, if_true]
      refine post_congr (h := w.helio i) ?_ ?_ _ _
      · rfl
      · rfl

end OffReceiver

/-! ## A miss (R121) -/

section Miss
variable {s : State} {i : Nat}

theorem missAccess_of_below (below : (s.helio i).lost = true ∨ min 15 ((s.helio i).misses + 1) < s.limits.lostLimit) :
    missAccess i s = s.setHelio i { s.helio i with misses := min 15 ((s.helio i).misses + 1) } := by
  unfold missAccess
  dsimp only
  rw [if_neg]
  intro both
  simp only [Bool.and_eq_true, Bool.not_eq_true', decide_eq_true_eq] at both
  obtain lost | fewer := below
  · exact Bool.noConfusion (lost.symm.trans both.1)
  · omega

theorem missAccess_of_lost (heard : (s.helio i).lost = false) (limit : s.limits.lostLimit ≤ min 15 ((s.helio i).misses + 1)) :
    missAccess i s = stowTest (quietNotice true i (corrective i { lost := true }
      (s.setHelio i { s.helio i with misses := min 15 ((s.helio i).misses + 1), lost := true }))) := by
  unfold missAccess
  dsimp only
  rw [if_pos (by simp only [heard, limit, Bool.not_false, decide_true, Bool.and_self])]

end Miss

/-- The three rows that end a poll as a miss (R119, R121). -/
theorem exec_miss {c : Instr} {s : State} {n : Fin Config.nLine} {p : Poll} (running : s.inReset = false)
    (inFlight : (s.line n).poll = some p) (row : (c = .replyTimeout n ∧ ∃ us, p.phase = .awaiting us)
      ∨ (c = .replyGapTimeout n ∧ p.phase = .receiving) ∨ (c = .replyFramingError n ∧ p.phase = .receiving)) :
    exec c s = .next (arbiter (missPoll n p s)) := by
  obtain ⟨rfl, us, awaiting⟩ | ⟨rfl, receiving⟩ | ⟨rfl, receiving⟩ := row
  · refine (act_of running (by rw [pollIn_of inFlight, awaiting]; rfl) _).trans ?_
    rw [withPoll_of inFlight]
  · exact exec_replyGapTimeout_of_receiving running inFlight receiving
  · refine (act_of running (by rw [pollIn_of inFlight, receiving]; rfl) _).trans ?_
    rw [withPoll_of inFlight]

theorem quietNotice_true (i : Nat) (s : State) :
    quietNotice true i s = { s with notices := if s.sup.mode = .quiet then s.notices.raiseQuiet i else s.notices } := by
  unfold quietNotice
  cases mode : s.sup.mode <;> rfl

/-- Settles O41: the count below the limit, and at it the corrective action on the record made LOST. -/
theorem missCountsAndLoses : Obligations.MissCountsAndLoses := by
  unfold Obligations.MissCountsAndLoses
  intro c s n p i h running inFlight row index record
  subst index record
  rw [exec_miss running inFlight row, missPoll]
  refine ⟨fun void => by rw [if_pos void], fun valid below => ?_, fun valid inTable heard limit => ?_⟩
  · rw [if_neg (by rw [valid]; exact Bool.noConfusion), missAccess_of_below below]
  rw [if_neg (by rw [valid]; exact Bool.noConfusion), missAccess_of_lost heard limit, corrective_of_any rfl]
  obtain ⟨s1, marked⟩ : ∃ s1, s1 = s.setHelio p.helio { s.helio p.helio with misses := min 15 ((s.helio p.helio).misses + 1), lost := true } :=
    ⟨_, rfl⟩
  have here : s1.helio p.helio = { s.helio p.helio with misses := min 15 ((s.helio p.helio).misses + 1), lost := true } := by
    rw [marked]
    exact helio_setHelio_self _ _ _ inTable
  have reported : s1.reports p.helio { lost := true } ((s1.helio p.helio).primary.map (·.zone)) ((s1.helio p.helio).primary.map (·.slot)) =
      raiseHelio .driveLost p.helio ((s.helio p.helio).primary.map (·.zone)) ((s.helio p.helio).primary.map (·.slot)) s1 := by
    rw [here]
    rfl
  rw [← marked, reported, quietNotice_true]
  obtain ⟨w, raised⟩ : ∃ w, w = raiseHelio .driveLost p.helio ((s.helio p.helio).primary.map (·.zone)) ((s.helio p.helio).primary.map (·.slot)) s1 :=
    ⟨_, rfl⟩
  have lost : w.helio p.helio = { s.helio p.helio with
      misses := min 15 ((s.helio p.helio).misses + 1), lost := true, lastExc := some .driveLost
      latched := (s.helio p.helio).latched || !s.exc.masked .driveLost } := by
    rw [raised, raiseHelio_helio, if_pos ⟨rfl, inTable⟩, here, marked]
    rfl
  have cls : w.classOf p.helio = s.classOf p.helio := by
    rw [State.classOf, lost, raised, marked]
    rfl
  have posted : ((w.helio p.helio).post (w.classOf p.helio).deadband (defocusTarget (w.classOf p.helio) (w.helio p.helio))).pendingT =
      ((s.helio p.helio).post (s.classOf p.helio).deadband (defocusTarget (s.classOf p.helio) (s.helio p.helio))).pendingT := by
    have target : defocusTarget (s.classOf p.helio) (w.helio p.helio) = defocusTarget (s.classOf p.helio) (s.helio p.helio) := by
      rw [lost]
      rfl
    rw [cls, target, post_congr (g := w.helio p.helio) (h := s.helio p.helio) (by rw [lost]) (by rw [lost])]
  obtain ⟨hs, zs, off⟩ := offReceiver_eq w p.helio
  rw [← raised]
  refine ⟨_, rfl, ?_, fun j other => ?_, fun z zone => ?_, ?_, ?_, fun n' notices => ?_, ?_, ?_⟩
  · refine (offReceiver_helio w p.helio).trans ?_
    rw [posted, lost]
    rfl
  · refine (offReceiver_helio_ne w p.helio other).trans ?_
    rw [raised, raiseHelio_helio, if_neg fun both => other both.1.symm, marked, helio_setHelio_ne _ _ _ _ other]
  · refine (offReceiver_zone w p.helio zone).trans ?_
    rw [lost, raised, marked]
    rfl
  · dsimp only
    rw [off, raised, marked]
    rfl
  · dsimp only
    rw [off, raised, raiseHelio_flags, marked]
    rfl
  · dsimp only
    rw [off, notices, raised, marked]
    rfl
  · dsimp only
    rw [off, raised, marked]
    rfl
  · dsimp only
    rw [off, raised, marked]
    rfl

end Sys2Proof.Machine
end


section
/-! The access of a valid reply (O43, R122 to R130). -/

namespace Sys2Proof.Machine

/-! ## The reply read back (Table 10-10) -/

theorem flagsByte_bits (a b c : Bool) : (BitVec.ofNat 8 (bitsOf [a, b, c])).getLsbD 0 = a
    ∧ (BitVec.ofNat 8 (bitsOf [a, b, c])).getLsbD 1 = b ∧ (BitVec.ofNat 8 (bitsOf [a, b, c])).getLsbD 2 = c := by
  cases a <;> cases b <;> cases c <;> decide

/-- The fields of a reply as the drive wrote them (R122). -/
theorem readReply_replyBytes {q : Reported} {addr : Nat} (fits : addr < 256) (az : -8388608 ≤ q.az ∧ q.az ≤ 8388607)
    (el : -8388608 ≤ q.el ∧ q.el ≤ 8388607) (fault : q.fault ≤ 4) (loc acc : Bool) : readReply (replyBytes q addr loc acc) =
    { addr := addr, settled := q.settled, isLocal := loc, accepted := acc, fault := q.fault, az := q.az, el := q.el } := by
  have flags : ((replyBytes q addr loc acc).drop 1).headD 0#8 = BitVec.ofNat 8 (bitsOf [q.settled, loc, acc]) := rfl
  obtain ⟨settled, isLocal, accepted⟩ := flagsByte_bits q.settled loc acc
  unfold readReply
  dsimp only
  rw [flags, settled, isLocal, accepted]
  simp only [replyBytes, replySpan, List.append_assoc]
  simp only [fieldNat_append, fieldInt_append, byte1_length, intBytes_length, Nat.reduceSub, Nat.reduceLeDiff, Nat.le_refl]
  rw [fieldNat_byte1 _ fits, fieldNat_byte1 _ (by omega), fieldInt_zero _ (by norm_num; omega) (by norm_num; omega),
    fieldInt_zero _ (by norm_num; omega) (by norm_num; omega), min_eq_right fault]

/-! ## The tests on what is heard (R124, R125) -/

theorem settledAt_iff (c : DriveClass) (r : Reported) (t : Target) :
    settledAt c r t = true ↔ r.settled = true ∧ |r.az - t.az| ≤ c.tolerance ∧ |r.el - t.el| ≤ c.tolerance := by
  simp [settledAt, within, and_assoc]

/-- Is the drive settled at the record's commanded target? -/
def Helio.settledHere (c : DriveClass) (r : Reported) (h : Helio) : Bool := h.commanded.any (settledAt c r)

theorem settledHere_iff (c : DriveClass) (r : Reported) (h : Helio) : h.settledHere c r = true ↔
    ∃ t, h.commanded = some t ∧ r.settled = true ∧ |r.az - t.az| ≤ c.tolerance ∧ |r.el - t.el| ≤ c.tolerance := by
  simp only [Helio.settledHere, Option.any_eq_true, settledAt_iff]

theorem arrived_iff (c : DriveClass) (r : Reported) (h : Helio) : h.arrived c r = true ↔
    h.settledHere c r = true ∧ h.pendingT = none ∧ ∃ t, h.commanded = some t ∧ t.kind = .receiver := by
  unfold Helio.arrived Helio.settledHere
  cases h.commanded with
  | none => simp
  | some t => simp [and_assoc, and_comm]

theorem away_iff (c : DriveClass) (r : Reported) (h : Helio) : h.away c r = true ↔
    (∃ t, h.commanded = some t ∧ t.kind ≠ .receiver)
    ∧ (h.settledHere c r = true ∨ ∃ p, h.lastRecv = some p ∧ (c.clearDist ≤ |r.az - p.1| ∨ c.clearDist ≤ |r.el - p.2|)) := by
  unfold Helio.away Helio.settledHere
  cases h.commanded with
  | none => simp
  | some t =>
    cases h.lastRecv with
    | none => simp
    | some p => simp [or_comm]

theorem lagAfter_settling {h : Helio} (st : h.st = .approach ∨ h.st = .retarget) (c : DriveClass) (r : Reported) :
    h.lagAfter c r = (min 255 (h.lag + 1), decide (c.approachLimit ≤ min 255 (h.lag + 1))) := by
  obtain st | st := st
  · simp only [Helio.lagAfter, st]
  · simp only [Helio.lagAfter, st]

theorem lagAfter_onTarget {h : Helio} (st : h.st = .onTarget) (c : DriveClass) (r : Reported) : h.lagAfter c r =
    if h.settledHere c r then (0, false) else (min 255 (h.lag + 1), decide (c.lagLimit ≤ min 255 (h.lag + 1))) := by
  cases commanded : h.commanded <;> simp [Helio.lagAfter, st, Helio.settledHere, commanded]

theorem lagAfter_other {h : Helio} (st : h.st = .vacant ∨ h.st = .idle ∨ h.st = .clear ∨ h.st = .leaving) (c : DriveClass) (r : Reported) :
    h.lagAfter c r = (h.lag, false) := by
  obtain st | st | st | st := st
  all_goals simp only [Helio.lagAfter, st]

/-! ## Arrival and away (R84, R85, R124, R125) -/

section Arrival
variable {s : State} {i : Nat} {r : Reported}

theorem arrivalStep_approach (arrived : (s.helio i).arrived (s.classOf i) r = true) (st : (s.helio i).st = .approach) :
    arrivalStep i r s = s.setHelio i { s.helio i with st := .onTarget, lag := 0 } := by
  have moved : (s.helio i).toState .onTarget = { s.helio i with st := .onTarget, lag := 0 } := by
    rw [toState_eq, if_neg (by rw [st]; exact HState.noConfusion)]
  simp only [arrivalStep, arrived, if_true, st, moved]

theorem arrivalStep_retarget (arrived : (s.helio i).arrived (s.classOf i) r = true) (st : (s.helio i).st = .retarget) :
    arrivalStep i r s = promote i s := by
  simp only [arrivalStep, arrived, if_true, st]

theorem arrivalStep_other (other : ¬((s.helio i).arrived (s.classOf i) r = true ∧ ((s.helio i).st = .approach ∨ (s.helio i).st = .retarget))) :
    arrivalStep i r s = s := by
  unfold arrivalStep
  dsimp only
  split
  · next arrived =>
    split
    · next st => exact absurd ⟨arrived, .inl st⟩ other
    · next st => exact absurd ⟨arrived, .inr st⟩ other
    all_goals rfl
  · rfl

theorem promoted_eq {h : Helio} (retarget : h.st = .retarget) :
    h.promoted = { h with st := .onTarget, lag := 0, primary := h.transfer, transfer := none } := by
  rw [Helio.promoted, toState_eq, if_neg (by rw [retarget]; exact HState.noConfusion)]

theorem awayStep_other (other : ¬((s.helio i).st = .leaving ∧ (s.helio i).away (s.classOf i) r = true)) : awayStep i r s = s := if_neg other

theorem awayStep_leaving (leaving : (s.helio i).st = .leaving) (away : (s.helio i).away (s.classOf i) r = true) :
    awayStep i r s = releaseAll i s := if_pos ⟨leaving, away⟩

/-- A release after a write of the same record is one from the record before, when that write leaves the reservations. -/
theorem State.AllReleased.of_setHelio {a : State} {d h : Helio} (inTable : i < Config.nHelio) (released : (s.setHelio i d).AllReleased a i h)
    (primary : d.primary = (s.helio i).primary) (transfer : d.transfer = (s.helio i).transfer) : s.AllReleased a i h := by
  obtain ⟨m, without, with_, noTransfer, withTransfer⟩ := released
  rw [helio_setHelio_self _ _ _ inTable, primary, setHelio_setHelio] at without with_
  rw [helio_setHelio_self _ _ _ inTable, transfer] at noTransfer withTransfer
  exact ⟨m, without, with_, noTransfer, withTransfer⟩

end Arrival

/-- What arrival and away make of a state whose record i is d (R124, R125). -/
structure ArrivalSpec (s : State) (i : Nat) (d : Helio) (arrived away : Bool) (a : State) : Prop where
  approach : d.st = .approach ∧ arrived = true → a = s.setHelio i { d with st := .onTarget, lag := 0 }
  retarget : ∀ old new, d.st = .retarget ∧ arrived = true → d.primary = some old → d.transfer = some new →
    (s.setHelio i { d with st := .onTarget, lag := 0, primary := some new, transfer := none }).Released a false old
  leaving  : d.st = .leaving ∧ away = true → (s.setHelio i d).AllReleased a i { d with st := .clear, lag := 0, primary := none, transfer := none }
  other    : ¬((d.st = .approach ∨ d.st = .retarget) ∧ arrived = true) → ¬(d.st = .leaving ∧ away = true) → a = s.setHelio i d
  record   : ∃ lag primary transfer, a.helio i = { d with
    st := if (d.st = .approach ∨ d.st = .retarget) ∧ arrived = true then .onTarget
      else if d.st = .leaving ∧ away = true then .clear else d.st
    lag := lag, primary := primary, transfer := transfer }
    ∧ (¬((d.st = .approach ∨ d.st = .retarget) ∧ arrived = true) → ¬(d.st = .leaving ∧ away = true) → lag = d.lag)
    ∧ (d.st = .leaving ∧ away = true → lag = 0)

section ArrivalCases
variable {s : State} {i : Nat} {d : Helio} {c : DriveClass} {r : Reported}

theorem arrivalSpec_approach (inTable : i < Config.nHelio) (cls : (s.setHelio i d).classOf i = c) (approach : d.st = .approach)
    (arrived : d.arrived c r = true) :
    ArrivalSpec s i d (d.arrived c r) (d.away c r) (awayStep i r (arrivalStep i r (s.setHelio i d))) := by
  have here : (s.setHelio i d).helio i = d := helio_setHelio_self _ _ _ inTable
  have arrives : (d.st = .approach ∨ d.st = .retarget) ∧ d.arrived c r = true := ⟨.inl approach, arrived⟩
  have notLeaving : ¬(d.st = .leaving ∧ d.away c r = true) := by
    rw [approach]
    exact fun both => nomatch both.1
  have arrival : awayStep i r (arrivalStep i r (s.setHelio i d)) = s.setHelio i { d with st := .onTarget, lag := 0 } := by
    rw [arrivalStep_approach (by rw [here, cls]; exact arrived) (by rw [here]; exact approach), here, setHelio_setHelio, awayStep_other]
    rw [helio_setHelio_self _ _ _ inTable]
    exact fun both => nomatch both.1
  rw [arrival]
  refine ⟨fun _ => rfl, fun old new both => ?_, fun both => absurd both notLeaving, fun none_ => absurd arrives none_,
    0, d.primary, d.transfer, ?_, fun none_ => absurd arrives none_, fun _ => rfl⟩
  · rw [approach] at both
    exact (nomatch both.1)
  · rw [helio_setHelio_self _ _ _ inTable, if_pos arrives]

theorem arrivalSpec_retarget (inTable : i < Config.nHelio) (cls : (s.setHelio i d).classOf i = c) (retarget : d.st = .retarget)
    (arrived : d.arrived c r = true) :
    ArrivalSpec s i d (d.arrived c r) (d.away c r) (awayStep i r (arrivalStep i r (s.setHelio i d))) := by
  have here : (s.setHelio i d).helio i = d := helio_setHelio_self _ _ _ inTable
  have arrives : (d.st = .approach ∨ d.st = .retarget) ∧ d.arrived c r = true := ⟨.inr retarget, arrived⟩
  have notLeaving : ¬(d.st = .leaving ∧ d.away c r = true) := by
    rw [retarget]
    exact fun both => nomatch both.1
  have promotes : arrivalStep i r (s.setHelio i d) = releaseSums false d.primary
      (s.setHelio i { d with st := .onTarget, lag := 0, primary := d.transfer, transfer := none }) := by
    rw [arrivalStep_retarget (by rw [here, cls]; exact arrived) (by rw [here]; exact retarget), promote_sums, here, setHelio_setHelio,
      promoted_eq retarget]
  have record : (arrivalStep i r (s.setHelio i d)).helio i =
      { d with st := .onTarget, lag := 0, primary := d.transfer, transfer := none } := by
    rw [promotes, releaseSums_helio, helio_setHelio_self _ _ _ inTable]
  have stays : awayStep i r (arrivalStep i r (s.setHelio i d)) = arrivalStep i r (s.setHelio i d) := by
    rw [awayStep_other]
    rw [record]
    exact fun both => nomatch both.1
  rw [stays]
  refine ⟨fun both => ?_, fun old new _ holds moving => ?_, fun both => absurd both notLeaving, fun none_ => absurd arrives none_,
    0, d.transfer, none, ?_, fun none_ => absurd arrives none_, fun _ => rfl⟩
  · rw [retarget] at both
    exact (nomatch both.1)
  · rw [promotes, holds, moving]
    exact releaseSums_released ..
  · rw [record, if_pos arrives]

theorem arrivalStep_none (inTable : i < Config.nHelio) (cls : (s.setHelio i d).classOf i = c)
    (none_ : ¬((d.st = .approach ∨ d.st = .retarget) ∧ d.arrived c r = true)) : arrivalStep i r (s.setHelio i d) = s.setHelio i d := by
  refine arrivalStep_other fun both => none_ ?_
  rw [cls, helio_setHelio_self _ _ _ inTable] at both
  exact both.symm

theorem arrivalSpec_leaving (inTable : i < Config.nHelio) (cls : (s.setHelio i d).classOf i = c) (leaving : d.st = .leaving)
    (away : d.away c r = true) : ArrivalSpec s i d (d.arrived c r) (d.away c r) (awayStep i r (arrivalStep i r (s.setHelio i d))) := by
  have here : (s.setHelio i d).helio i = d := helio_setHelio_self _ _ _ inTable
  have none_ : ¬((d.st = .approach ∨ d.st = .retarget) ∧ d.arrived c r = true) := by
    rw [leaving]
    rintro ⟨st | st, -⟩
    · cases st
    · cases st
  have leaves : d.st = .leaving ∧ d.away c r = true := ⟨leaving, away⟩
  have released := releaseAll_allReleased (s.setHelio i d) i
  obtain ⟨_, _, _, _, releases⟩ := releaseAll_eq (s.setHelio i d) i
  rw [arrivalStep_none inTable cls none_, awayStep_leaving (by rw [here]; exact leaving) (by rw [here, cls]; exact away)]
  rw [here, if_neg (by rw [leaving]; exact HState.noConfusion)] at released releases
  refine ⟨fun both => absurd ⟨.inl both.1, both.2⟩ none_, fun _ _ both => absurd ⟨.inr both.1, both.2⟩ none_, fun _ => released,
    fun _ stays => absurd leaves stays, 0, none, none, ?_, fun _ stays => absurd leaves stays, fun _ => rfl⟩
  rw [if_neg none_, if_pos leaves, releases]
  exact helio_setHelio_self _ _ _ inTable

theorem arrivalSpec_other (inTable : i < Config.nHelio) (cls : (s.setHelio i d).classOf i = c)
    (none_ : ¬((d.st = .approach ∨ d.st = .retarget) ∧ d.arrived c r = true)) (stays : ¬(d.st = .leaving ∧ d.away c r = true)) :
    ArrivalSpec s i d (d.arrived c r) (d.away c r) (awayStep i r (arrivalStep i r (s.setHelio i d))) := by
  have here : (s.setHelio i d).helio i = d := helio_setHelio_self _ _ _ inTable
  rw [arrivalStep_none inTable cls none_, awayStep_other (by rw [cls, here]; exact stays)]
  refine ⟨fun both => absurd ⟨.inl both.1, both.2⟩ none_, fun _ _ both => absurd ⟨.inr both.1, both.2⟩ none_,
    fun both => absurd both stays, fun _ _ => rfl, d.lag, d.primary, d.transfer, ?_, fun _ _ => rfl, fun both => absurd both stays⟩
  rw [if_neg none_, if_neg stays, here]

theorem arrivalSpec (inTable : i < Config.nHelio) (cls : (s.setHelio i d).classOf i = c) (r : Reported) :
    ArrivalSpec s i d (d.arrived c r) (d.away c r) (awayStep i r (arrivalStep i r (s.setHelio i d))) := by
  by_cases arrives : (d.st = .approach ∨ d.st = .retarget) ∧ d.arrived c r = true
  · obtain ⟨approach | retarget, arrived⟩ := arrives
    · exact arrivalSpec_approach inTable cls approach arrived
    · exact arrivalSpec_retarget inTable cls retarget arrived
  · by_cases leaves : d.st = .leaving ∧ d.away c r = true
    · exact arrivalSpec_leaving inTable cls leaves.1 leaves.2
    · exact arrivalSpec_other inTable cls arrives leaves

end ArrivalCases

namespace ArrivalSpec
variable {s a : State} {i : Nat} {d : Helio} {c : DriveClass} {q : Reported}

/-! ### The lag count after arrival and away (R126, R127) -/

theorem settling (spec : ArrivalSpec s i d (d.arrived c q) (d.away c q) a) (st : d.st = .approach ∨ d.st = .retarget)
    (notYet : d.arrived c q = false) : (a.helio i).lagAfter c q = (min 255 (d.lag + 1), decide (c.approachLimit ≤ min 255 (d.lag + 1))) := by
  have none_ : ¬((d.st = .approach ∨ d.st = .retarget) ∧ d.arrived c q = true) := by simp [notYet]
  have stays : ¬(d.st = .leaving ∧ d.away c q = true) := by
    rintro ⟨leaving, -⟩
    rw [leaving] at st
    simp at st
  obtain ⟨lag, _, _, record, kept, -⟩ := spec.record
  rw [if_neg none_, if_neg stays, kept none_ stays] at record
  rw [record, lagAfter_settling (by exact st)]

theorem arrivedLag (spec : ArrivalSpec s i d (d.arrived c q) (d.away c q) a) (st : d.st = .approach ∨ d.st = .retarget)
    (arrived : d.arrived c q = true) : (a.helio i).lagAfter c q = (0, false) := by
  obtain ⟨lag, _, _, record, -⟩ := spec.record
  rw [if_pos ⟨st, arrived⟩] at record
  have settled : (a.helio i).settledHere c q = true := by
    rw [record]
    exact ((arrived_iff c q d).mp arrived).1
  rw [lagAfter_onTarget (by rw [record]), if_pos settled]

theorem onTargetLag (spec : ArrivalSpec s i d (d.arrived c q) (d.away c q) a) (onTarget : d.st = .onTarget) : (a.helio i).lagAfter c q =
    if d.settledHere c q then (0, false) else (min 255 (d.lag + 1), decide (c.lagLimit ≤ min 255 (d.lag + 1))) := by
  have none_ : ¬((d.st = .approach ∨ d.st = .retarget) ∧ d.arrived c q = true) := by simp [onTarget]
  have stays : ¬(d.st = .leaving ∧ d.away c q = true) := by simp [onTarget]
  obtain ⟨lag, _, _, record, kept, -⟩ := spec.record
  rw [if_neg none_, if_neg stays, kept none_ stays] at record
  rw [record, lagAfter_onTarget (by exact onTarget)]
  rfl

theorem releasedLag (spec : ArrivalSpec s i d (d.arrived c q) (d.away c q) a) (leaves : d.st = .leaving ∧ d.away c q = true) :
    (a.helio i).lagAfter c q = (0, false) := by
  have none_ : ¬((d.st = .approach ∨ d.st = .retarget) ∧ d.arrived c q = true) := by simp [leaves.1]
  obtain ⟨lag, _, _, record, -, zero⟩ := spec.record
  rw [if_neg none_, if_pos leaves, zero leaves] at record
  rw [record, lagAfter_other (.inr (.inr (.inl rfl)))]

theorem stillLag (spec : ArrivalSpec s i d (d.arrived c q) (d.away c q) a)
    (still : d.st = .vacant ∨ d.st = .idle ∨ d.st = .clear ∨ (d.st = .leaving ∧ d.away c q = false)) :
    (a.helio i).lagAfter c q = (d.lag, false) := by
  have none_ : ¬((d.st = .approach ∨ d.st = .retarget) ∧ d.arrived c q = true) := by
    obtain st | st | st | ⟨st, -⟩ := still
    all_goals simp [st]
  have stays : ¬(d.st = .leaving ∧ d.away c q = true) := by
    obtain st | st | st | ⟨-, notAway⟩ := still
    · simp [st]
    · simp [st]
    · simp [st]
    · simp [notAway]
  obtain ⟨lag, _, _, record, kept, -⟩ := spec.record
  rw [if_neg none_, if_neg stays, kept none_ stays] at record
  rw [record]
  exact lagAfter_other (still.imp_right (.imp_right (.imp_right And.left))) c q

end ArrivalSpec

/-! ## What the access leaves of the supervisor, and of the record while it reports (R129) -/

theorem raiseWhen_record (b : Bool) (kind : ExcKind) (i : Nat) (z k : Option Nat) (s : State) : ∃ e l,
    (raiseWhen b kind i z k s).helio i = { s.helio i with lastExc := e, latched := l } := by
  unfold raiseWhen
  split
  · rw [raiseHelio_helio]
    split
    · exact ⟨_, _, rfl⟩
    · exact ⟨_, _, rfl⟩
  · exact ⟨_, _, rfl⟩

theorem reports_record (s : State) (i : Nat) (c : Conditions) (z k : Option Nat) : ∃ e l,
    (s.reports i c z k).helio i = { s.helio i with lastExc := e, latched := l } := by
  obtain ⟨_, _, first⟩ := raiseWhen_record c.lost .driveLost i z k s
  obtain ⟨_, _, second⟩ := raiseWhen_record c.lag .lag i z k (raiseWhen c.lost .driveLost i z k s)
  obtain ⟨_, _, third⟩ := raiseWhen_record c.fault .driveFault i z k (raiseWhen c.lag .lag i z k (raiseWhen c.lost .driveLost i z k s))
  rw [State.reports, third, second, first]
  exact ⟨_, _, rfl⟩

theorem reports_classOf (s : State) (i : Nat) (c : Conditions) (z k : Option Nat) : (s.reports i c z k).classOf i = s.classOf i :=
  (((State.Proceeds.raiseWhen c.lost .driveLost i z k s).trans (.raiseWhen c.lag .lag i z k _)).trans
    (.raiseWhen c.fault .driveFault i z k _)).toEvolves.classOf i

theorem raiseWhen_sup (b : Bool) (kind : ExcKind) (i : Nat) (z k : Option Nat) (s : State) : (raiseWhen b kind i z k s).sup = s.sup := by
  unfold raiseWhen
  split <;> rfl

theorem corrective_sup (i : Nat) (c : Conditions) (s : State) : (corrective i c s).sup = s.sup := by
  cases arose : c.any with
  | false => rw [corrective_of_none arose]
  | true =>
    rw [corrective_of_any arose]
    obtain ⟨_, _, off⟩ := offReceiver_eq (s.reports i c ((s.helio i).primary.map (·.zone)) ((s.helio i).primary.map (·.slot))) i
    rw [off, State.reports]
    exact (raiseWhen_sup ..).trans ((raiseWhen_sup ..).trans (raiseWhen_sup ..))

theorem arrivalStep_sup (i : Nat) (r : Reported) (s : State) : (arrivalStep i r s).sup = s.sup := by
  unfold arrivalStep
  dsimp only
  split
  · split
    · rfl
    · obtain ⟨_, _, _, _, released⟩ := releaseSums_eq (s.setHelio i (s.helio i).promoted) false (s.helio i).primary
      rw [promote_sums, released]
      rfl
    all_goals rfl
  · rfl

theorem awayStep_sup (i : Nat) (r : Reported) (s : State) : (awayStep i r s).sup = s.sup := by
  obtain same | ⟨-, releases⟩ := awayStep_cases i r s
  · rw [same]
  · obtain ⟨_, _, _, _, released⟩ := releaseAll_eq s i
    rw [releases, released]
    rfl

theorem quietNotice_ite (changed : Bool) (i : Nat) (x : State) : quietNotice changed i x =
    if x.sup.mode = .quiet ∧ changed = true then { x with notices := x.notices.raiseQuiet i } else x := by
  unfold quietNotice
  simp only [Bool.and_eq_true, beq_iff_eq, and_comm]

theorem changedBy_iff (h : Helio) (r : ReplyFields) : h.changedBy r = true ↔
    (h.reported.map (·.fault)).getD 0 ≠ r.fault ∨ h.isLocal ≠ r.isLocal ∨ h.lost = true := by
  simp [Helio.changedBy, or_assoc]

/-! ## The statement -/

/-- The corrective action of a valid reply, as its reports and what follows them (R129). -/
theorem corrective_spec {b : State} {i : Nat} {cond : Conditions} {cl : DriveClass} {d : Helio} (arose : cond.any = true)
    (cls : b.classOf i = cl) (target : defocusTarget cl (b.helio i) = defocusTarget cl d) {w : State}
    (reports : w = b.reports i cond ((b.helio i).primary.map (·.zone)) ((b.helio i).primary.map (·.slot))) : ∃ u : State,
    ((b.helio i).holder = true → w.Leaves u i) ∧ ((b.helio i).holder = false → u = w)
    ∧ corrective i cond b = if (b.helio i).reserved then offer i (defocusTarget cl d) u else u := by
  obtain ⟨_, _, record⟩ := reports_record b i cond ((b.helio i).primary.map (·.zone)) ((b.helio i).primary.map (·.slot))
  have same := reports_classOf b i cond ((b.helio i).primary.map (·.zone)) ((b.helio i).primary.map (·.slot))
  rw [← reports] at record same
  have holder : (w.helio i).holder = (b.helio i).holder := by rw [record]; rfl
  have reserved : (w.helio i).reserved = (b.helio i).reserved := by rw [record]; rfl
  have defocus : defocusTarget (w.classOf i) (w.helio i) = defocusTarget cl d := by
    rw [same, cls, record]
    exact target
  refine ⟨enterLeaving i w, fun holds => enterLeaving_leaves (holder.trans holds), fun none_ => enterLeaving_of_not _ _ (holder.trans none_), ?_⟩
  rw [corrective_of_any arose, ← reports, State.offReceiver, reserved, defocus]

/-- Settles O43: the steps of the access in their order, the record followed through arrival and away. -/
theorem validReplyResult : Obligations.ValidReplyResult := by
  unfold Obligations.ValidReplyResult
  intro s n p q acc loc i h d cl running inFlight receiving valid fits inTable azLo azHi elLo elHi faultCode index atStart class_ delivered
  subst index class_
  obtain ⟨r, fields⟩ : ∃ r : ReplyFields, r =
    { addr := p.addr, settled := q.settled, isLocal := loc, accepted := acc, fault := q.fault, az := q.az, el := q.el } := ⟨_, rfl⟩
  have read := readReply_replyBytes fits ⟨azLo, azHi⟩ ⟨elLo, elHi⟩ faultCode loc acc
  have taken : (s.helio p.helio).taken (s.classOf p.helio) p.move r = d := by
    rw [delivered, atStart, fields]
    cases p.move with
    | none => rfl
    | some t =>
      by_cases same : (s.helio p.helio).pendingT = some t
      · cases acc <;> simp [Helio.taken, Helio.heard, Helio.deliver, same]
      · cases acc <;> simp [Helio.taken, Helio.heard, Helio.deliver, same]
  have kept : d.st = h.st ∧ d.lag = h.lag ∧ d.primary = h.primary ∧ d.transfer = h.transfer ∧ d.cls = h.cls := by
    rw [delivered]
    exact ⟨rfl, rfl, rfl, rfl, rfl⟩
  obtain ⟨st, lag0, primary, transfer, name⟩ := kept
  have cls : (s.setHelio p.helio d).classOf p.helio = s.classOf p.helio := by
    rw [State.classOf, helio_setHelio_self _ _ _ inTable, name, atStart]
    rfl
  have spec := arrivalSpec inTable cls q
  obtain ⟨a, left⟩ : ∃ a, a = awayStep p.helio q (arrivalStep p.helio q (s.setHelio p.helio d)) := ⟨_, rfl⟩
  rw [← left] at spec
  obtain ⟨_, _, _, record, -⟩ := spec.record
  obtain ⟨b, marked⟩ : ∃ b, b = a.setHelio p.helio { a.helio p.helio with
    lag := ((a.helio p.helio).lagAfter (s.classOf p.helio) q).1, faulted := decide (q.fault ≠ 0), isLocal := loc } := ⟨_, rfl⟩
  have here : b.helio p.helio = { a.helio p.helio with
      lag := ((a.helio p.helio).lagAfter (s.classOf p.helio) q).1, faulted := decide (q.fault ≠ 0), isLocal := loc } := by
    rw [marked]
    exact helio_setHelio_self _ _ _ inTable
  obtain ⟨cond, arose⟩ : ∃ cond : Conditions, cond = {
      lag := ((a.helio p.helio).lagAfter (s.classOf p.helio) q).2, fault := decide (q.fault ≠ 0) && !h.faulted
      isLocal := loc && !h.isLocal } := ⟨_, rfl⟩
  have bCls : b.classOf p.helio = s.classOf p.helio := by
    have aCls : a.classOf p.helio = (s.setHelio p.helio d).classOf p.helio := by
      rw [left]
      exact ((State.Proceeds.arrivalStep p.helio q (s.setHelio p.helio d)).toEvolves.trans (.awayStep ..)).classOf p.helio
    rw [← cls, ← aCls, State.classOf, here, marked]
    rfl
  have target : defocusTarget (s.classOf p.helio) (b.helio p.helio) = defocusTarget (s.classOf p.helio) d := by
    rw [here, record]
    rfl
  have sup : (corrective p.helio cond b).sup = s.sup := by
    rw [corrective_sup, marked]
    change a.sup = _
    rw [left, awayStep_sup, arrivalStep_sup]
    rfl
  have access : replyAccess p.helio p.move r s = stowTest (quietNotice (h.changedBy r) p.helio (corrective p.helio cond b)) := by
    unfold replyAccess
    dsimp only
    rw [taken, arose, marked, left, atStart, fields]
    rfl
  refine ⟨d.arrived (s.classOf p.helio) q, d.away (s.classOf p.helio) q, d.settledHere (s.classOf p.helio) q,
    cond.lag, cond.fault, cond.isLocal, ((a.helio p.helio).lagAfter (s.classOf p.helio) q).1, a, b,
    b.reports p.helio cond ((b.helio p.helio).primary.map (·.zone)) ((b.helio p.helio).primary.map (·.slot)), corrective p.helio cond b,
    settledHere_iff .., arrived_iff .., away_iff .., ?approach, ?promotion, ?release, ?none_, marked, ?moving, ?moved, ?onTarget, ?released,
    ?still, ?fault, ?isLocal, ?reports, ?quiet, ?acts, ?row⟩
  case approach =>
    rw [← st]
    exact spec.approach
  case promotion =>
    intro old new
    rw [← st, ← primary, ← transfer]
    exact spec.retarget old new
  case release =>
    rw [← st]
    exact fun leaves => (spec.leaving leaves).of_setHelio inTable (by rw [primary, atStart]) (by rw [transfer, atStart])
  case none_ =>
    rw [← st]
    exact spec.other
  case moving =>
    rw [arose, ← st, ← lag0]
    exact fun ⟨moving, notYet⟩ => by rw [spec.settling moving notYet]; exact ⟨rfl, rfl⟩
  case moved =>
    rw [arose, ← st]
    exact fun ⟨moving, arrived⟩ => by rw [spec.arrivedLag moving arrived]; exact ⟨rfl, rfl⟩
  case onTarget =>
    rw [arose, ← st, ← lag0]
    intro onTarget
    rw [spec.onTargetLag onTarget]
    cases d.settledHere (s.classOf p.helio) q
    · exact ⟨rfl, rfl⟩
    · exact ⟨rfl, rfl⟩
  case released =>
    rw [arose, ← st]
    exact fun leaves => by rw [spec.releasedLag leaves]; exact ⟨rfl, rfl⟩
  case still =>
    rw [arose, ← st, ← lag0]
    exact fun still => by rw [spec.stillLag still]; exact ⟨rfl, rfl⟩
  case fault => rw [arose]
  case isLocal => rw [arose]
  case reports =>
    rintro z k rfl rfl
    rw [arose]
    unfold State.reports raiseWhen
    dsimp only
    cases decide (q.fault ≠ 0) && !h.faulted <;> cases ((a.helio p.helio).lagAfter (s.classOf p.helio) q).2 <;> rfl
  case quiet =>
    intro noLag noFault noLocal
    have quiet : cond.any = false := by
      rw [Conditions.any, noLag, noFault, noLocal, arose]
      rfl
    rw [corrective_of_none quiet]
  case acts =>
    intro acts
    have any : cond.any = true := by
      obtain lag | fault | isLocal := acts
      · simp [Conditions.any, lag]
      · simp [Conditions.any, fault]
      · simp [Conditions.any, isLocal]
    exact corrective_spec any bCls target rfl
  case row =>
    rw [exec_driveReply_of_receiving running inFlight receiving (by simp [replyBytes, replySpan_length]),
      completePoll_of_match (crcMatches_replyBytes ..) (readReply_addr q fits ..), if_neg (by rw [valid]; exact Bool.noConfusion),
      read, ← fields, access, quietNotice_ite, sup]
    simp only [changedBy_iff, fields]

end Sys2Proof.Machine
end
